-- ==== Sys2Proof/Word.lean ====
section
/-! DEFINITION. The byte. The types whose width is a named constant of the block stand in Config.lean. -/

namespace Sys2Proof

/-- A byte is an unsigned 8-bit value (R8). -/
abbrev Byte := BitVec 8

end Sys2Proof
end

