-- ==== Sys2Proof/Config.lean ====
section
/-! DEFINITION. The fixed constants (R6) and the named parameters (R7) of the block, each written once, so that a
corrected literal changes one definition (93_implementation_defined.md I8). No value of the spec is left free: where
it says "any value" (I4, I5, I6, I12, I15, I16) no output of the block depends on that value. -/

namespace Sys2Proof.Config

/-- `TS_BITS`, the width of an opaque timestamp (R7, D2). -/
abbrev tsBits : Nat := 64

/-- `OFFSET_BITS`, the width of the stream-offset counter and of every offset field (R7, D3). -/
abbrev offsetBits : Nat := 64

/-- `CNT_BITS`, the width of the four saturating counters (R7, D4). -/
abbrev cntBits : Nat := 32

/-- Width in which an opaque error value of the source or sink is held; the spec gives none
(DESIGN CHOICE, notes/assumptions/5.md). -/
abbrev errBits : Nat := 64

/-- `FRAME_SIZE` (R6). -/
abbrev frameSize : Nat := 16

/-- Half-words per frame (R6, R71). -/
abbrev halfWords : Nat := 8

/-- Index of a frame's last half-word, the one without an aux bit (R74). -/
abbrev lastHalf : Nat := halfWords - 1

/-- Half-words that have an aux bit, all but the last, and so the width of the auxiliary vector (R73, R74). It is one
less than `halfWords`, in the form in which Lean sees that there is one. -/
abbrev auxBits : Nat :=
  match halfWords with
  | 0 => 0
  | n + 1 => n

/-- Index of a frame's last byte, the auxiliary byte (R71). -/
abbrev auxIndex : Nat := frameSize - 1

/-- Bit of the auxiliary byte that is aux bit 0; aux bit `i` is `i` places above it (R73, I9). -/
abbrev auxLow : Nat := 1

/-- Width of the `data_or_id` field (R72, R76, I8). -/
abbrev idBits : Nat := 7

/-- Entries of the membership table (R6). -/
abbrev tableSize : Nat := 256

/-- `SYNC[0..3]`, index 0 first on the wire (R6, R77). -/
def sync : Vector Byte 4 := #v[0xFF, 0xFF, 0xFF, 0x7F]

/-- `NULL_ID` (R6). -/
def nullId : BitVec idBits := 0

end Sys2Proof.Config

namespace Sys2Proof

/-- A decoded channel ID: the `data_or_id` field, values 0 to 127 (R76). -/
abbrev ChanId := BitVec Config.idBits

/-- The auxiliary vector `A`; `A[i]` is its bit `i` (R73). -/
abbrev AuxVector := BitVec Config.auxBits

/-- The index of a half-word that has an aux bit: 0 to 6 (R73, R79). -/
abbrev HalfIndex := Fin Config.auxBits

/-- A timestamp, carried opaquely (R23). -/
abbrev Timestamp := BitVec Config.tsBits

/-- A stream offset (R31). -/
abbrev Offset := BitVec Config.offsetBits

/-- A saturating counter (R11). -/
abbrev Counter := BitVec Config.cntBits

/-- The opaque error value of a failing source or sink (R33, I15). -/
abbrev ErrValue := BitVec Config.errBits

/-- `MEMBER[0..255]`: entry `i` is bit `i` (R34). -/
abbrev MemberTable := BitVec Config.tableSize

end Sys2Proof
end

