-- ==== Sys2Proof/Syntax.lean ====
section
/-! DEFINITION. What the block is given and what it executes: framing modes, buffer Entries, input events, and the ONE
inductive `Instr` with a constructor for each of the 32 rows of spec/opcode_table.json. -/

namespace Sys2Proof

/-- How many of the four sync bytes a syncing mode has matched: `k` in 1..3 (R21). -/
inductive SyncCount where
  | one | two | three
  deriving DecidableEq, Repr

/-- The eight values of the mode register (R21). -/
inductive Mode where
  /-- Not frame-aligned. -/
  | searching
  /-- `k` of 4 sync bytes matched while unaligned. -/
  | searchingSyncing (k : SyncCount)
  /-- Frame-aligned, consuming frames. -/
  | framing
  /-- `k` of 4 sync bytes matched while previously aligned. -/
  | framingSyncing (k : SyncCount)
  deriving DecidableEq, Repr

/-- An Entry: one captured byte, its timestamp and its 1-based stream offset (R23). -/
structure Entry where
  byte : Byte
  ts   : Timestamp
  off  : Offset
  deriving DecidableEq, Repr

/-- The three kinds of event the input port carries (R38). -/
inductive EventKind where
  | byte | endStream | srcErr
  deriving DecidableEq, Repr

/-- One event of the byte source (R38, R66). -/
inductive Event where
  | byte (b : Byte) (ts : Timestamp)
  | endStream
  | srcErr (err : ErrValue)
  deriving DecidableEq, Repr

/-- The operations of the block, one constructor per row of the opcode table (R87). Operands are those of the row's
rule; a byte handed to the driver comes with its timestamp, and its offset is the `offset` register (40 preamble). -/
inductive Instr where
  /-- `BYTE` (R121). -/
  | byte (b : Byte) (ts : Timestamp)
  /-- `END` (R132). -/
  | endStream
  /-- `SRC_ERR` (R133, R171). -/
  | srcErr (err : ErrValue)
  /-- `SINK_ERR`, the sink's failing answer to an offered packet (R40, R172). -/
  | sinkErr (err : ErrValue)
  /-- `SYNC_START` (R100). -/
  | syncStart
  /-- `SYNC_ADVANCE` (R101). -/
  | syncAdvance
  /-- `SYNC_COMPLETE_S` (R102). -/
  | syncCompleteS
  /-- `SYNC_COMPLETE_F` (R103). -/
  | syncCompleteF
  /-- `SYNC_ABORT_S` (R104). -/
  | syncAbortS (b : Byte)
  /-- `SYNC_DERAIL` (R105). -/
  | syncDerail (b : Byte)
  /-- `NO_SYNC` (R106): the byte is handed to the ingestion driver. -/
  | noSync (b : Byte) (ts : Timestamp)
  /-- `CAND_ACCEPT` (R123). -/
  | candAccept (b : Byte) (ts : Timestamp)
  /-- `CAND_DISCARD` (R123). -/
  | candDiscard (b : Byte) (ts : Timestamp)
  /-- `FRAME_FIRST` (R124). -/
  | frameFirst (b : Byte) (ts : Timestamp)
  /-- `FRAME_BYTE` (R125). -/
  | frameByte (b : Byte) (ts : Timestamp)
  /-- `FRAME_COMPLETE` (R126). -/
  | frameComplete
  /-- `BYTE_CHECK` (R140). -/
  | byteCheck (b : Byte)
  /-- `FRAME_CHECK` (R141). -/
  | frameCheck
  /-- `SEARCH_FRAME_VALID` (R127). -/
  | searchFrameValid
  /-- `SEARCH_FRAME_INVALID` (R128). -/
  | searchFrameInvalid
  /-- `FRAME_VALID` (R129). -/
  | frameValid
  /-- `FRAME_INVALID_TOLERATED` (R130). -/
  | frameInvalidTolerated
  /-- `FRAME_INVALID_RESUME` (R131). -/
  | frameInvalidResume
  /-- `DEMUX` (R150). -/
  | demux
  /-- `HW_ID_IMM` (R151): half-word `i`, its low and high Entries. -/
  | hwIdImm (i : HalfIndex) (lo hi : Entry)
  /-- `HW_ID_DELAY` (R152). -/
  | hwIdDelay (i : HalfIndex) (lo hi : Entry)
  /-- `HW_ID_ORPHAN` (R153). -/
  | hwIdOrphan (i : HalfIndex) (lo hi : Entry)
  /-- `HW_DATA` (R154). -/
  | hwData (i : HalfIndex) (lo hi : Entry)
  /-- `HW_LAST_ID` (R155): half-word 7's low Entry; `x` is the aux byte, no data of this half-word (R74). -/
  | hwLastId (lo : Entry) (x : Byte)
  /-- `HW_LAST_DATA` (R156). -/
  | hwLastData (lo : Entry) (x : Byte)
  /-- `AUX` (R73): the frame's last byte, read as the auxiliary vector. -/
  | aux (b : Byte)
  /-- `SEND` (R157): one packet offered to the NULL filter and the sink. -/
  | send (id : ChanId) (datum : Byte) (off : Offset) (ts : Timestamp)
  deriving DecidableEq, Repr

end Sys2Proof
end

