-- ==== Sys2Proof/Machine/Bits.lean ====
section
/-! DEFINITION. Bit fields and byte order: the fields of a half-word, the auxiliary vector, the steps of the sync
count, and the byte order in which wide operands are laid out. Each position is fixed here, in one place (I8, I9). -/

namespace Sys2Proof

/-- The control bit: bit 0 of a half-word's low byte (R56, R72, R78). -/
def ctrlBit (lo : Byte) : Bool := lo.getLsbD 0

/-- `data_or_id`: bits 7:1 of a half-word's low byte (R56, R72, R78). -/
def idField (lo : Byte) : ChanId := lo.extractLsb' 1 Config.idBits

/-- The auxiliary vector `A`: the top 7 bits of a frame's last byte; bit 0 is unused (R73, R75, D19, I9). -/
def auxVector (b : Byte) : AuxVector := b.extractLsb' Config.auxLow Config.auxBits

/-- `A[i]`, the aux bit of half-word `i` in 0..6 (R73). -/
def auxBit (a : AuxVector) (i : HalfIndex) : Bool := a.getLsbD i

/-- Buffer index of half-word `i`'s first, low byte (R55, R71). -/
abbrev lowIndex (i : Nat) : Nat := 2 * i

/-- Buffer index of half-word `i`'s second, high byte (R55, R71). -/
abbrev highIndex (i : Nat) : Nat := 2 * i + 1

/-- The buffer indices of a frame's low bytes, one for each half-word (R71). -/
def lowIndices : List Nat := (List.range Config.halfWords).map lowIndex

/-- The half-words that have an aux bit, in index order (R79, R150). -/
def halfIndices : List HalfIndex := List.finRange Config.auxBits

/-- The last half-word, as an index of any half-word (R74). -/
def lastHalfIndex : Fin Config.halfWords := ⟨Config.lastHalf, by decide⟩

/-- `k` as a number, 1 to 3 (R21). -/
def SyncCount.toNat : SyncCount → Nat
  | .one => 1
  | .two => 2
  | .three => 3

/-- `k + 1`, where it is still a syncing count; `none` where `k + 1 = 4` (R101, R102, R103). -/
def SyncCount.next : SyncCount → Option SyncCount
  | .one => some .two
  | .two => some .three
  | .three => none

/-- `SYNC[k]`, the byte compared after `k` matched bytes (R77). -/
def SyncCount.expected : SyncCount → Byte
  | .one => Config.sync[1]
  | .two => Config.sync[2]
  | .three => Config.sync[3]

/-- `SYNC[0]`, the byte that begins a match (R77, R100). -/
def syncFirst : Byte := Config.sync[0]

/-- The 3-bit code of a mode: bit 2 is the Framing family, bits 1:0 are `k` (R21, D7). -/
def Mode.code : Mode → BitVec 3
  | .searching => 0b000
  | .searchingSyncing k => BitVec.ofNat 3 k.toNat
  | .framing => 0b100
  | .framingSyncing k => BitVec.ofNat 3 (4 + k.toNat)

/-- `mode` is a syncing state, of either family. -/
def Mode.syncing : Mode → Bool
  | .searchingSyncing _ => true
  | .framingSyncing _ => true
  | .searching => false
  | .framing => false

/-- `mode[2]`: the Framing family (R21, R43). -/
def Mode.framed (m : Mode) : Bool := m.code.getLsbD 2

/-- The mode after `SYNC[0]` (R100): the same family, with `k = 1`. -/
def Mode.startSync : Mode → Option Mode
  | .searching => some (.searchingSyncing .one)
  | .framing => some (.framingSyncing .one)
  | .searchingSyncing _ => none
  | .framingSyncing _ => none

/-- The mode after a matching byte that does not complete the pattern (R101): the same family, `k + 1`. -/
def Mode.advanceSync : Mode → Option Mode
  | .searchingSyncing k => k.next.map .searchingSyncing
  | .framingSyncing k => k.next.map .framingSyncing
  | .searching => none
  | .framing => none

/-- The eight bytes of a 64-bit operand, least significant first (DESIGN CHOICE, notes/assumptions/4.md). -/
def word64Bytes (v : BitVec 64) : List Byte :=
  [v.extractLsb' 0 8, v.extractLsb' 8 8, v.extractLsb' 16 8, v.extractLsb' 24 8,
   v.extractLsb' 32 8, v.extractLsb' 40 8, v.extractLsb' 48 8, v.extractLsb' 56 8]

/-- Reads a 64-bit operand off the front of a list of bytes, least significant byte first. -/
def takeWord64 : List Byte → Option (BitVec 64 × List Byte)
  | b0 :: b1 :: b2 :: b3 :: b4 :: b5 :: b6 :: b7 :: rest =>
    some (b7 ++ b6 ++ b5 ++ b4 ++ b3 ++ b2 ++ b1 ++ b0, rest)
  | _ => none

end Sys2Proof
end

