-- ==== Sys2Proof/WellFormed.lean ====
section
/-! DEFINITION. Which terms of `Instr` are operations of the block: the fixed bits and the static conditions on the
byte that the opcode table gives a row. Conditions on the state (mode, `n`, `cur_id`, the aux bit, membership) are the
decoder's context (Decode.lean) and the meanings' own (Machine/). -/

namespace Sys2Proof

/-- The static conditions of an operation's row (R79, R80, R87). -/
def Instr.wellFormed : Instr → Bool
  | .byte _ _ => true
  | .endStream => true
  | .srcErr _ => true
  | .sinkErr _ => true
  | .syncStart => true
  | .syncAdvance => true
  | .syncCompleteS => true
  | .syncCompleteF => true
  | .syncAbortS _ => true
  | .syncDerail _ => true
  | .noSync b _ => b != syncFirst
  | .candAccept b _ => b != syncFirst && ctrlBit b
  | .candDiscard b _ => b != syncFirst
  | .frameFirst b _ => b != syncFirst
  | .frameByte _ _ => true
  | .frameComplete => true
  | .byteCheck _ => true
  | .frameCheck => true
  | .searchFrameValid => true
  | .searchFrameInvalid => true
  | .frameValid => true
  | .frameInvalidTolerated => true
  | .frameInvalidResume => true
  | .demux => true
  | .hwIdImm _ lo _ => ctrlBit lo.byte
  | .hwIdDelay _ lo _ => ctrlBit lo.byte
  | .hwIdOrphan _ lo _ => ctrlBit lo.byte
  | .hwData _ lo _ => !ctrlBit lo.byte
  | .hwLastId lo _ => ctrlBit lo.byte
  | .hwLastData lo _ => !ctrlBit lo.byte
  | .aux _ => true
  | .send _ _ _ _ => true

end Sys2Proof
end

