-- ==== Sys2Proof/Decode.lean ====
section
/-! DEFINITION. The decoder. The block has no instruction memory: what a byte or half-word IS depends on the component
that looks at it and on the state (R70, R79, R80). So the decoder reads bytes in a `Ctx`, which names the component and
carries the conditions the bits cannot express (the `fields` of the opcode table, R87). It is total on any bytes and
rejects by name. The encoder follows it, and then the contexts in which an operation's bytes may stand. -/

namespace Sys2Proof

/-- The kind of an event (R38). -/
def Event.kind : Event → EventKind
  | .byte _ _ => .byte
  | .endStream => .endStream
  | .srcErr _ => .srcErr

/-- The event as the operation it asks the block for (R87, format EVENT). -/
def Event.instr : Event → Instr
  | .byte b ts => .byte b ts
  | .endStream => .endStream
  | .srcErr err => .srcErr err

/-! ### The classes, as functions of what they are classed by -/

/-- The matcher's classes of an input byte (R80, R100 to R107). -/
inductive MatchClass where
  | syncStart | syncAdvance | syncCompleteS | syncCompleteF | syncAbortS | syncDerail | noSync
  /-- Handed on without consulting the matcher: `n > 0` (R107), so a `FRAME_BYTE`. -/
  | frameByte
  deriving DecidableEq, Repr

/-- The matcher's class of byte `b` in `mode` with fill index `n` (R80, R110; DEDUCED, notes/assumptions/13.md);
total. -/
def matchClass (m : Mode) (n : Nat) (b : Byte) : MatchClass :=
  match m with
  | .searchingSyncing k =>
    if b = k.expected then (if k.next.isSome then .syncAdvance else .syncCompleteS) else .syncAbortS
  | .framingSyncing k =>
    if b = k.expected then (if k.next.isSome then .syncAdvance else .syncCompleteF) else .syncDerail
  | .searching => if n = 0 then (if b = syncFirst then .syncStart else .noSync) else .frameByte
  | .framing => if n = 0 then (if b = syncFirst then .syncStart else .noSync) else .frameByte

/-- `Member(id)` (R53): the table entry at the zero-extended ID. -/
def isMember (member : MemberTable) (id : ChanId) : Bool := member.getLsbD id.toNat

/-- `byte_check(b)` (R140): the control bit is set and the ID field is a member. -/
def passesByteCheck (member : MemberTable) (b : Byte) : Bool := ctrlBit b && isMember member (idField b)

/-- The driver's classes of a byte handed on with `n = 0` (R122, R123, R124). -/
inductive DriverClass where
  | candAccept | candDiscard | frameFirst
  deriving DecidableEq, Repr

/-- The driver's class of byte `b` with `n = 0`; `none` where the matcher does not hand the byte on. -/
def driverClass (m : Mode) (member : MemberTable) (b : Byte) : Option DriverClass :=
  if b = syncFirst then none else
  match m with
  | .searching => some (if passesByteCheck member b then .candAccept else .candDiscard)
  | .framing => some .frameFirst
  | .searchingSyncing _ => none
  | .framingSyncing _ => none

/-- The rows a completed frame is handled by (R126). -/
inductive FrameClass where
  | searchValid | searchInvalid | valid | invalidTolerated | invalidResume
  deriving DecidableEq, Repr

/-- The row of a completed frame, by mode, the frame check's verdict and `consec` (R126); `none` in a syncing mode,
in which no frame is ever complete. -/
def frameClass (m : Mode) (ok : Bool) (consec : Counter) : Option FrameClass :=
  match m with
  | .searching => some (if ok then .searchValid else .searchInvalid)
  | .framing => some (if ok then .valid else if consec = 0 then .invalidResume else .invalidTolerated)
  | .searchingSyncing _ => none
  | .framingSyncing _ => none

/-- The classes of half-words 0 to 6 (R79). -/
inductive HalfClass where
  | idImm | idDelay | idOrphan | data
  deriving DecidableEq, Repr

/-- The class of a half-word at index 0..6, by its control bit, its aux bit and whether `cur_id` is `Some` (R79, R150). -/
def halfClass (ctrl aux curValid : Bool) : HalfClass :=
  if ctrl then (if aux then (if curValid then .idDelay else .idOrphan) else .idImm) else .data

/-! ### The decoder -/

/-- Who looks at the bytes, with the state the bytes are classed by. -/
inductive Ctx where
  /-- The input port, which says what kind of event it carries (R38). -/
  | port (k : EventKind)
  /-- The sink's failing answer (R40). -/
  | sink
  /-- The sync-pattern matcher (R110). -/
  | matcher (m : Mode) (n : Nat)
  /-- The ingestion driver, with `n = 0` (R122). -/
  | driver (m : Mode) (member : MemberTable)
  /-- The byte check (R140). -/
  | byteValidator
  /-- The driver, when an append has made `n = FRAME_SIZE` (R126). -/
  | bufferFull
  /-- The frame check (R141). -/
  | frameValidator
  /-- The driver, when the frame check has answered (R126). -/
  | verdict (m : Mode) (ok : Bool) (consec : Counter)
  /-- The demultiplexer, on a full buffer (R150). -/
  | demuxEntry
  /-- The demultiplexer at the frame's last byte (R73). -/
  | auxByte
  /-- The demultiplexer at half-word `i` in 0..6, with the aux vector and `cur_valid` (R79). -/
  | halfWord (i : HalfIndex) (a : AuxVector) (curValid : Bool)
  /-- The demultiplexer at half-word 7 (R74, R79). -/
  | lastHalfWord
  /-- The NULL filter in front of the sink (R157). -/
  | nullFilter
  deriving DecidableEq, Repr

/-- Why bytes are no operation in their context. -/
inductive Reject where
  /-- The bytes end inside an operand. -/
  | truncated
  /-- The matcher does not hand this byte on in this mode (R100, R110). -/
  | notHandedOn
  /-- No frame is complete in a syncing mode (R126). -/
  | syncingMode
  /-- A packet's `id` container holds an ID above 127, which never occurs (R76). -/
  | idOutOfRange
  deriving DecidableEq, Repr

/-- Reads one 64-bit operand and goes on with the rest. -/
def withWord64 (w : List Byte) (k : BitVec 64 → List Byte → Except Reject Instr) : Except Reject Instr :=
  match takeWord64 w with
  | some (v, rest) => k v rest
  | none => .error .truncated

/-- Reads one byte and goes on with the rest. -/
def withByte (w : List Byte) (k : Byte → List Byte → Except Reject Instr) : Except Reject Instr :=
  match w with
  | b :: rest => k b rest
  | [] => .error .truncated

/-- A half-word's low and high byte, then the operands the table gives no bits: the low Entry's timestamp and offset,
then the high Entry's. -/
def withHalfWord (w : List Byte) (k : Entry → Entry → Except Reject Instr) : Except Reject Instr :=
  withByte w fun lo w => withByte w fun hi w => withWord64 w fun lts w => withWord64 w fun loff w =>
    withWord64 w fun hts w => withWord64 w fun hoff _ =>
      k { byte := lo, ts := lts, off := loff } { byte := hi, ts := hts, off := hoff }

/-- Half-word 7: its low byte, the aux byte in the place of the high byte, then the low Entry's timestamp and offset. -/
def withLastHalfWord (w : List Byte) (k : Entry → Byte → Except Reject Instr) : Except Reject Instr :=
  withByte w fun lo w => withByte w fun x w => withWord64 w fun lts w => withWord64 w fun loff _ =>
    k { byte := lo, ts := lts, off := loff } x

/-- The operation the matcher's class stands for. -/
def MatchClass.decode (c : MatchClass) (b : Byte) (w : List Byte) : Except Reject Instr :=
  match c with
  | .syncStart => .ok .syncStart
  | .syncAdvance => .ok .syncAdvance
  | .syncCompleteS => .ok .syncCompleteS
  | .syncCompleteF => .ok .syncCompleteF
  | .syncAbortS => .ok (.syncAbortS b)
  | .syncDerail => .ok (.syncDerail b)
  | .noSync => withWord64 w fun ts _ => .ok (.noSync b ts)
  | .frameByte => withWord64 w fun ts _ => .ok (.frameByte b ts)

/-- The operation the driver's class stands for. -/
def DriverClass.instr (c : DriverClass) (b : Byte) (ts : Timestamp) : Instr :=
  match c with
  | .candAccept => .candAccept b ts
  | .candDiscard => .candDiscard b ts
  | .frameFirst => .frameFirst b ts

/-- The operation a completed frame's row stands for. -/
def FrameClass.instr : FrameClass → Instr
  | .searchValid => .searchFrameValid
  | .searchInvalid => .searchFrameInvalid
  | .valid => .frameValid
  | .invalidTolerated => .frameInvalidTolerated
  | .invalidResume => .frameInvalidResume

/-- The operation a half-word's class stands for. -/
def HalfClass.instr (c : HalfClass) (i : HalfIndex) (lo hi : Entry) : Instr :=
  match c with
  | .idImm => .hwIdImm i lo hi
  | .idDelay => .hwIdDelay i lo hi
  | .idOrphan => .hwIdOrphan i lo hi
  | .data => .hwData i lo hi

/-- The operation the front bytes of `w` are in context `c`; bytes after its operands are not looked at. -/
def decode (c : Ctx) (w : List Byte) : Except Reject Instr :=
  match c with
  | .port .byte => withByte w fun b w => withWord64 w fun ts _ => .ok (.byte b ts)
  | .port .endStream => .ok .endStream
  | .port .srcErr => withWord64 w fun err _ => .ok (.srcErr err)
  | .sink => withWord64 w fun err _ => .ok (.sinkErr err)
  | .matcher m n => withByte w fun b w => (matchClass m n b).decode b w
  | .driver m member => withByte w fun b w => withWord64 w fun ts _ =>
    match driverClass m member b with
    | some d => .ok (d.instr b ts)
    | none => .error .notHandedOn
  | .byteValidator => withByte w fun b _ => .ok (.byteCheck b)
  | .bufferFull => .ok .frameComplete
  | .frameValidator => .ok .frameCheck
  | .verdict m ok consec =>
    match frameClass m ok consec with
    | some f => .ok f.instr
    | none => .error .syncingMode
  | .demuxEntry => .ok .demux
  | .auxByte => withByte w fun b _ => .ok (.aux b)
  | .halfWord i a curValid => withHalfWord w fun lo hi =>
    .ok ((halfClass (ctrlBit lo.byte) (auxBit a i) curValid).instr i lo hi)
  | .lastHalfWord => withLastHalfWord w fun lo x =>
    .ok (if ctrlBit lo.byte then .hwLastId lo x else .hwLastData lo x)
  | .nullFilter => withByte w fun id w => withByte w fun datum w => withWord64 w fun off w => withWord64 w fun ts _ =>
    if id.toNat < 2 ^ Config.idBits then .ok (.send (id.extractLsb' 0 Config.idBits) datum off ts)
    else .error .idOutOfRange

/-! ### The encoder -/

/-- The bytes of a half-word of two Entries, as `withHalfWord` reads them. -/
def halfWordBytes (lo hi : Entry) : List Byte :=
  [lo.byte, hi.byte] ++ word64Bytes lo.ts ++ word64Bytes lo.off ++ word64Bytes hi.ts ++ word64Bytes hi.off

/-- The bytes of half-word 7, as `withLastHalfWord` reads them. -/
def lastHalfWordBytes (lo : Entry) (x : Byte) : List Byte :=
  [lo.byte, x] ++ word64Bytes lo.ts ++ word64Bytes lo.off

/-- The bytes of an operation: the bits the opcode table gives its row, then the operands the table gives no bits
(R71 to R78, R87). -/
def encode : Instr → List Byte
  | .byte b ts => b :: word64Bytes ts
  | .endStream => []
  | .srcErr err => word64Bytes err
  | .sinkErr err => word64Bytes err
  | .syncStart => [Config.sync[0]]
  | .syncAdvance => [Config.sync[1]]
  | .syncCompleteS => [Config.sync[3]]
  | .syncCompleteF => [Config.sync[3]]
  | .syncAbortS b => [b]
  | .syncDerail b => [b]
  | .noSync b ts => b :: word64Bytes ts
  | .candAccept b ts => b :: word64Bytes ts
  | .candDiscard b ts => b :: word64Bytes ts
  | .frameFirst b ts => b :: word64Bytes ts
  | .frameByte b ts => b :: word64Bytes ts
  | .frameComplete => []
  | .byteCheck b => [b]
  | .frameCheck => []
  | .searchFrameValid => []
  | .searchFrameInvalid => []
  | .frameValid => []
  | .frameInvalidTolerated => []
  | .frameInvalidResume => []
  | .demux => []
  | .hwIdImm _ lo hi => halfWordBytes lo hi
  | .hwIdDelay _ lo hi => halfWordBytes lo hi
  | .hwIdOrphan _ lo hi => halfWordBytes lo hi
  | .hwData _ lo hi => halfWordBytes lo hi
  | .hwLastId lo x => lastHalfWordBytes lo x
  | .hwLastData lo x => lastHalfWordBytes lo x
  | .aux b => [b]
  | .send id datum off ts => [id.zeroExtend 8, datum] ++ word64Bytes off ++ word64Bytes ts

/-- The conditions on the context that the opcode table's `fields` give an operation's row (R79, R80, R87). -/
def Instr.admits (i : Instr) (c : Ctx) : Bool :=
  match i with
  | .byte _ _ => match c with
    | .port k => k == .byte
    | _ => false
  | .endStream => match c with
    | .port k => k == .endStream
    | _ => false
  | .srcErr _ => match c with
    | .port k => k == .srcErr
    | _ => false
  | .sinkErr _ => match c with
    | .sink => true
    | _ => false
  | .syncStart => match c with
    | .matcher m n => !m.syncing && n == 0
    | _ => false
  | .syncAdvance => match c with
    | .matcher m _ => m.advanceSync.isSome
    | _ => false
  | .syncCompleteS => match c with
    | .matcher m _ => m == .searchingSyncing .three
    | _ => false
  | .syncCompleteF => match c with
    | .matcher m _ => m == .framingSyncing .three
    | _ => false
  | .syncAbortS b => match c with
    | .matcher (.searchingSyncing k) _ => b != k.expected
    | _ => false
  | .syncDerail b => match c with
    | .matcher (.framingSyncing k) _ => b != k.expected
    | _ => false
  | .noSync b _ => match c with
    | .matcher m n => !m.syncing && n == 0 && b != syncFirst
    | _ => false
  | .frameByte _ _ => match c with
    | .matcher m n => !m.syncing && n != 0
    | _ => false
  | .candAccept b _ => match c with
    | .driver m member => m == .searching && b != syncFirst && passesByteCheck member b
    | _ => false
  | .candDiscard b _ => match c with
    | .driver m member => m == .searching && b != syncFirst && !passesByteCheck member b
    | _ => false
  | .frameFirst b _ => match c with
    | .driver m _ => m == .framing && b != syncFirst
    | _ => false
  | .frameComplete => match c with
    | .bufferFull => true
    | _ => false
  | .byteCheck _ => match c with
    | .byteValidator => true
    | _ => false
  | .frameCheck => match c with
    | .frameValidator => true
    | _ => false
  | .searchFrameValid => match c with
    | .verdict m ok _ => m == .searching && ok
    | _ => false
  | .searchFrameInvalid => match c with
    | .verdict m ok _ => m == .searching && !ok
    | _ => false
  | .frameValid => match c with
    | .verdict m ok _ => m == .framing && ok
    | _ => false
  | .frameInvalidTolerated => match c with
    | .verdict m ok consec => m == .framing && !ok && consec != 0
    | _ => false
  | .frameInvalidResume => match c with
    | .verdict m ok consec => m == .framing && !ok && consec == 0
    | _ => false
  | .demux => match c with
    | .demuxEntry => true
    | _ => false
  | .aux _ => match c with
    | .auxByte => true
    | _ => false
  | .hwIdImm i lo _ => match c with
    | .halfWord j a _ => i == j && ctrlBit lo.byte && !auxBit a i
    | _ => false
  | .hwIdDelay i lo _ => match c with
    | .halfWord j a cv => i == j && ctrlBit lo.byte && auxBit a i && cv
    | _ => false
  | .hwIdOrphan i lo _ => match c with
    | .halfWord j a cv => i == j && ctrlBit lo.byte && auxBit a i && !cv
    | _ => false
  | .hwData i lo _ => match c with
    | .halfWord j _ _ => i == j && !ctrlBit lo.byte
    | _ => false
  | .hwLastId lo _ => match c with
    | .lastHalfWord => ctrlBit lo.byte
    | _ => false
  | .hwLastData lo _ => match c with
    | .lastHalfWord => !ctrlBit lo.byte
    | _ => false
  | .send _ _ _ _ => match c with
    | .nullFilter => true
    | _ => false

/-! ### Words numbered as the opcode table numbers them -/

/-- The bytes of a table word of `nbits` bits, the first byte least significant, followed by the zero bytes of the
operands the table gives no bits. -/
def tableBytes (nbits w : Nat) : List Byte :=
  [BitVec.ofNat 8 w, BitVec.ofNat 8 (w / 256)].take (nbits / 8) ++ List.replicate 34 0

/-- The operation the decoder reads from a bare table word. The word carries no context, so each length is read in
the one context in which the block meets such a word first after reset (DESIGN CHOICE, notes/assumptions/9.md): no
bits are an `END` event at the input port, 8 bits a `BYTE` event there, 16 bits half-word 0 of a frame whose aux bit 0
is clear, with `cur_id = None`. -/
def decodeTableWord (nbits w : Nat) : Option Instr :=
  let read (c : Ctx) : Option Instr :=
    match decode c (tableBytes nbits w) with
    | .ok i => some i
    | .error _ => none
  if nbits = 0 then read (.port .endStream)
  else if nbits = 8 then read (.port .byte)
  else if nbits = 16 then read (.halfWord 0 0 false)
  else none

end Sys2Proof
end

