-- ==== Sys2Proof/Machine/State.lean ====
section
/-! DEFINITION. The state of the block (R20), its ports to the host (R38 to R42), the reasons a step can stop, and the
state after reset (R45, R190). -/

namespace Sys2Proof.Machine

/-- The run status (R32, R176). -/
inductive Status where
  | running
  | done
  | abortedSrc
  | abortedSink
  | faultNoCurrentId
  | faultIllegalTransition
  deriving DecidableEq, Repr

/-- The terminal record, one form for each way a run ends (R33, R176). -/
inductive Term where
  /-- `DONE`: the valid frames. -/
  | total (totalValid : Counter)
  /-- `ABORTED_SRC` and `ABORTED_SINK`: the opaque error value. -/
  | err (err : ErrValue)
  /-- `FAULT_NO_CURRENT_ID`: the half-word index and the offset of its first byte. -/
  | noCurrentId (hwIndex : Fin Config.halfWords) (off : Offset)
  /-- `FAULT_ILLEGAL_TRANSITION`. -/
  | illegalTransition (fromMode toMode : Mode) (off : Offset)
  deriving DecidableEq, Repr

/-- A packet on the output port; `id` is the 7-bit channel ID zero-extended to 8 bits (R39). -/
structure Packet where
  id    : Byte
  datum : Byte
  off   : Offset
  ts    : Timestamp
  deriving DecidableEq, Repr

/-- A diagnostic record (R41). -/
inductive Diag where
  | syncFound (off : Offset)
  | framingDerailed (off : Offset)
  | validFrame (off : Offset)
  | invalidFrame (consec : Counter) (off : Offset)
  | resumeSearch (off : Offset)
  | orphanedByte (off : Offset)
  | summary (totalValid : Counter)
  deriving DecidableEq, Repr

/-- One output of the block. Packets, diagnostics and the terminal status form one total order (R62). -/
inductive Output where
  /-- A packet the sink answered `OK`: it was delivered. -/
  | packet (p : Packet)
  /-- A packet the sink answered `SINK_ERR`: it was offered and counts as not delivered (R172). -/
  | refusedPacket (p : Packet)
  /-- A diagnostic record. -/
  | diag (d : Diag)
  /-- The run ended with this status. -/
  | ended (st : Status)
  deriving DecidableEq, Repr

/-- The sink's answer to one offered packet (R40, R67). -/
inductive SinkAnswer where
  | ok
  | err (e : ErrValue)
  deriving DecidableEq, Repr

/-- What the host does at the block's inputs between events: answer a pull with an event (R38, R66), or apply reset with
a configuration (R42, R68, R190). -/
inductive HostAction where
  | event (e : Event)
  | reset (member : MemberTable) (intermix : Bool)
  deriving DecidableEq, Repr

/-- The whole state. The first group is the block's own state, exactly R20's list; the second is the ports to the host;
the third is the two results one component of the block hands another inside an event (DESIGN CHOICE,
notes/assumptions/2.md). -/
structure State where
  /-- The mode register (R21). -/
  mode : Mode
  /-- The frame buffer's `FRAME_SIZE` entries; `none` is an entry not written in the run (R24, R52, I3). -/
  buf : Vector (Option Entry) Config.frameSize
  /-- The fill index, 0..`FRAME_SIZE` (R25). -/
  n : Fin (Config.frameSize + 1)
  /-- The Current Channel ID: `none` is `cur_valid = 0` (R26). -/
  curId : Option ChanId
  /-- The consecutive-valid-frame counter (R27). -/
  consec : Counter
  /-- Frames passed and demultiplexed to the end (R28). -/
  totalValid : Counter
  /-- Frames that failed the check (R29). -/
  totalInvalid : Counter
  /-- Orphaned bytes (R30). -/
  orphanCount : Counter
  /-- The stream-offset counter (R31). -/
  offset : Offset
  /-- The run status (R32). -/
  status : Status
  /-- The terminal record; `none` is no value (R33). -/
  term : Option Term
  /-- The latched membership table (R34). -/
  member : MemberTable
  /-- The latched intermixing policy (R35). -/
  intermix : Bool
  /-- What the host will do at the inputs, the next action first (R38, R66, R68). -/
  input : List HostAction
  /-- The sink's answers to the packets still to be offered, the next first (R40, R67). -/
  answers : List SinkAnswer
  /-- What the run has put out, the oldest first (R39, R41, R62). -/
  out : List Output
  /-- What the validator last answered; no answer yet is `none`. -/
  verdict : Option Bool
  /-- The auxiliary vector the demultiplexer last decoded (`A` of R150). -/
  auxVec : AuxVector
  deriving DecidableEq, Repr

/-- Why the block has no next state although nothing is wrong with what it was given. Every one is safe: the model stops,
and no claim of progress holds. -/
inductive Fault where
  /-- Raised by `step`: the source has not answered the pull (R68, R184, I10: stuck;
  notes/assumptions/6.md). Safe. -/
  | awaitingEvent
  /-- Raised by `execSend`: the sink has not answered the offered packet (R68, R184, I10:
  stuck; notes/assumptions/6.md). Safe. -/
  | awaitingSinkAnswer
  /-- Raised by `withEntry` and `execFrameCheck`: a read of a buffer entry that has not been written (R52, I3: fault).
  Unreachable from reset. Safe. -/
  | unwrittenEntry
  deriving DecidableEq, Repr

/-- Why the model rejects what it was given. -/
inductive Refusal where
  /-- Raised by `exec` alone, for an operation without a meaning; no arm raises it. Safe. -/
  | notModelled (mnemonic : String)
  /-- Raised by every meaning in a terminal status: the block has no step there until reset (R134, R179, I11). Safe. -/
  | runEnded
  /-- Raised by `execByte`: the run is longer than `2^OFFSET_BITS - 1` bytes (R11, D3, I7). Safe. -/
  | runTooLong
  /-- Raised by a meaning outside the class of operands and state its rule is about (R79, R80, R126): there the spec has
  no such operation. No step raises it where the invariant holds (notes/assumptions/3.md). Safe. -/
  | outsideClass
  deriving DecidableEq, Repr

/-- What one operation answers. -/
abbrev Result := Host.Outcome State Fault Refusal

/-- The state a reset with this configuration leaves (R45, R190), with nothing at the ports. -/
def State.resetWith (member : MemberTable) (intermix : Bool) : State where
  mode := .searching
  buf := Vector.replicate Config.frameSize none
  n := 0
  curId := none
  consec := 0
  totalValid := 0
  totalInvalid := 0
  orphanCount := 0
  offset := 0
  status := .running
  term := none
  member := member
  intermix := intermix
  input := []
  answers := []
  out := []
  verdict := none
  auxVec := 0

/-- The machine right after reset, with the policy's reference value 1 (R35) and an empty membership table
(DESIGN CHOICE, notes/assumptions/1.md: both are "as supplied" with reset). -/
def State.reset : State := State.resetWith 0 true

end Sys2Proof.Machine
end

