-- ==== Sys2Proof/Machine/Ops.lean ====
section
/-! DEFINITION. The named operations over the state: register writes, buffer access (R50 to R54), the outputs, entry
into a terminal status (R178) and the one way back (R179, R190), and how the parts of one event follow each other. -/

namespace Sys2Proof.Machine

/-! ### Register writes -/

/-- `mode <- m`. -/
def State.setMode (s : State) (m : Mode) : State := { s with mode := m }

/-- `cur_id <- Some(id)` (R158); no rule writes `None`. -/
def State.setCurId (s : State) (id : ChanId) : State := { s with curId := some id }

/-- `consec <- c`. -/
def State.setConsec (s : State) (c : Counter) : State := { s with consec := c }

/-- An increment that stays at the greatest value (R11, D4). -/
def satInc (c : Counter) : Counter := if c = BitVec.allOnes Config.cntBits then c else c + 1

/-- `total_valid <- sat_inc(total_valid)` (R28). -/
def State.countValid (s : State) : State := { s with totalValid := satInc s.totalValid }

/-- `total_invalid <- sat_inc(total_invalid)` (R29). -/
def State.countInvalid (s : State) : State := { s with totalInvalid := satInc s.totalInvalid }

/-- `orphan_count <- sat_inc(orphan_count)` (R30). -/
def State.countOrphan (s : State) : State := { s with orphanCount := satInc s.orphanCount }

/-- `offset <- offset + 1` (R31). -/
def State.countByte (s : State) : State := { s with offset := s.offset + 1 }

/-- The validator's answer, handed to the driver. -/
def State.setVerdict (s : State) (ok : Bool) : State := { s with verdict := some ok }

/-- The decoded auxiliary vector, for the half-words that follow. -/
def State.setAuxVec (s : State) (a : AuxVector) : State := { s with auxVec := a }

/-! ### The frame buffer -/

/-- `MemRead(j, 1)`: entry `j` for `j < n`; an entry at or above `n` holds no value (R24, R52; DEDUCED,
notes/assumptions/10.md). -/
def State.memRead (s : State) (j : Nat) : Option Entry :=
  if j < s.n.val then (s.buf[j]?).join else none

/-- `append(e)`: `MemWrite(n, 1, e); n <- n + 1` (R51, R122). Its callers hold `n` below `FRAME_SIZE`. -/
def State.append (s : State) (e : Entry) : State :=
  { s with buf := s.buf.setIfInBounds s.n.val (some e)
           n := ⟨min (s.n.val + 1) Config.frameSize, by omega⟩ }

/-- `compact(j)`: entries from `j` up move to the front, the entries above them hold no value, `n <- FRAME_SIZE - j` (R54). -/
def State.compact (s : State) (j : Nat) : State :=
  { s with buf := Vector.ofFn fun t => (s.buf[t.val + j]?).join
           n := ⟨Config.frameSize - j, by omega⟩ }

/-- `n <- 0`: the frame's entries become unreachable; they are not cleared (R51). -/
def State.dropFrame (s : State) : State := { s with n := 0 }

/-! ### Outputs -/

/-- Puts one output after those before it (R62). -/
def State.emit (s : State) (o : Output) : State := { s with out := s.out ++ [o] }

/-- `Log(d)`: one diagnostic record (R9, R41). -/
def State.log (s : State) (d : Diag) : State := s.emit (.diag d)

/-- The sink's answer has been taken from the port (R60: a sink call is not idempotent). -/
def State.takeAnswer (s : State) (rest : List SinkAnswer) : State := { s with answers := rest }

/-- The host's action has been taken from the input port (R60: a pull consumes the event). -/
def State.takeInput (s : State) (rest : List HostAction) : State := { s with input := rest }

/-! ### Terminal status -/

/-- Entry into a terminal status, the block's only exception entry: `status` and `term` are written and everything else
is frozen as it stood; control goes nowhere (R178). -/
def State.terminate (s : State) (st : Status) (t : Term) : State :=
  { s with status := st, term := some t, out := s.out ++ [.ended st] }

/-- Reset applied by the host, in any status: the only return from a terminal status (R179, R190, D28). Everything the
run held is dropped, its record of outputs too; what the host has still to do at the ports stays the host's. -/
def State.applyReset (s : State) (member : MemberTable) (intermix : Bool) : State :=
  { State.resetWith member intermix with input := s.input, answers := s.answers }

/-! ### How the parts of an event follow each other -/

/-- A meaning runs only while `status = RUNNING` (R134) and only on the operands and the state its rule is about. -/
def whileRunning (s : State) (inClass : Bool) (k : Result) : Result :=
  if s.status = .running then (if inClass then k else .refused .outsideClass) else .refused .runEnded

/-- Goes on with the rest of an event, unless what came before stopped it: the first terminal cause ends the event at
once, and the rest of it is not done (R172, R173, R177). -/
def andThen (r : Result) (k : State → Result) : Result :=
  match r with
  | .next s => if s.status = .running then k s else .next s
  | .fault f => .fault f
  | .refused f => .refused f

/-- Reads buffer entry `j` and goes on with it; an unwritten entry is the model's fault (R52, I3). -/
def withEntry (s : State) (j : Nat) (k : Entry → Result) : Result :=
  match s.memRead j with
  | some e => k e
  | none => .fault .unwrittenEntry

end Sys2Proof.Machine
end

