-- ==== Sys2Proof/Machine/Flags.lean ====
section
/-! DEFINITION. The block's flags (R43), its codes (R32, R41) and the observation outputs (R42). There are no condition
codes and no overflow flag (R11, R43). -/

namespace Sys2Proof.Machine

/-- `cur_valid` (R26, R43). -/
def State.curValid (s : State) : Bool := s.curId.isSome

/-- `mode[2]`: framed or not (R43). -/
def State.framed (s : State) : Bool := s.mode.framed

/-- `status != RUNNING` (R43). -/
def State.terminal (s : State) : Bool := s.status != .running

/-- The code of a status (R32, R176). -/
def Status.code : Status → Nat
  | .running => 0
  | .done => 1
  | .abortedSrc => 2
  | .abortedSink => 3
  | .faultNoCurrentId => 4
  | .faultIllegalTransition => 5

/-- The code of a diagnostic (R41). -/
def Diag.code : Diag → Nat
  | .syncFound _ => 1
  | .framingDerailed _ => 2
  | .validFrame _ => 3
  | .invalidFrame _ _ => 4
  | .resumeSearch _ => 5
  | .orphanedByte _ => 6
  | .summary _ => 7

/-- The packets delivered in the run, the oldest first (R39, R40). -/
def State.delivered (s : State) : List Packet :=
  s.out.filterMap fun o => match o with
    | .packet p => some p
    | .refusedPacket _ => none
    | .diag _ => none
    | .ended _ => none

/-- The diagnostic records of the run, the oldest first (R41). -/
def State.diagnostics (s : State) : List Diag :=
  s.out.filterMap fun o => match o with
    | .diag d => some d
    | .packet _ => none
    | .refusedPacket _ => none
    | .ended _ => none

/-- What a host may sample between events (R42). -/
structure Observation where
  status       : Nat
  term         : Option Term
  mode         : BitVec 3
  n            : Nat
  curId        : Option ChanId
  consec       : Counter
  totalValid   : Counter
  totalInvalid : Counter
  orphanCount  : Counter
  offset       : Offset
  deriving DecidableEq, Repr

/-- The observation outputs (R42); sampling them has no side effect. -/
def State.observe (s : State) : Observation where
  status := s.status.code
  term := s.term
  mode := s.mode.code
  n := s.n.val
  curId := s.curId
  consec := s.consec
  totalValid := s.totalValid
  totalInvalid := s.totalInvalid
  orphanCount := s.orphanCount
  offset := s.offset

end Sys2Proof.Machine
end

