-- ==== Sys2Proof/Machine/Operands.lean ====
section
/-! DEFINITION. Operand assembly: the Entry of a byte (R121) and the values a packet carries (R39, R81). -/

namespace Sys2Proof.Machine

/-- The Entry of byte `b`: its timestamp is the event's, its offset the `offset` register's, which the byte's event has
already counted up (R31, R121). -/
def State.entryOf (s : State) (b : Byte) (ts : Timestamp) : Entry := { byte := b, ts := ts, off := s.offset }

/-- The first datum of a data half-word: `(data_or_id << 1) | A[i]` (R81(b), R154). -/
def dataDatum (lo : Byte) (aux : Bool) : Byte :=
  ((idField lo).zeroExtend 8 <<< 1) ||| (BitVec.ofBool aux).zeroExtend 8

/-- The packet of a 7-bit channel ID, zero-extended to the 8-bit container (R39, R76). -/
def mkPacket (id : ChanId) (datum : Byte) (off : Offset) (ts : Timestamp) : Packet :=
  { id := id.zeroExtend 8, datum := datum, off := off, ts := ts }

end Sys2Proof.Machine
end

