-- ==== Sys2Proof/Machine/Sender.lean ====
section
/-! DEFINITION. The NULL filter and the sink: `SEND` (R157) and the sink's failing answer `SINK_ERR` (R172). -/

namespace Sys2Proof.Machine

/-- `SINK_ERR(err)`: the run is aborted and the event stops at once (R172). -/
def execSinkErr (err : ErrValue) (s : State) : Result :=
  whileRunning s true (.next (s.terminate .abortedSink (.err err)))

/-- `Send(id, datum, e)`: a packet under `NULL_ID` is dropped; any other is offered to the sink, whose answer is awaited
(R157). -/
def execSend (id : ChanId) (datum : Byte) (off : Offset) (ts : Timestamp) (s : State) : Result :=
  whileRunning s true <|
    if id = Config.nullId then .next s
    else match s.answers with
      | [] => .fault .awaitingSinkAnswer
      | .ok :: rest => .next ((s.takeAnswer rest).emit (.packet (mkPacket id datum off ts)))
      | .err e :: rest => execSinkErr e ((s.takeAnswer rest).emit (.refusedPacket (mkPacket id datum off ts)))

end Sys2Proof.Machine
end

