-- ==== Sys2Proof/Machine/Demux.lean ====
section
/-! DEFINITION. The frame demultiplexer: the auxiliary vector (R73), one meaning for each half-word class (R151 to R156)
and the walk over a frame (R150). -/

namespace Sys2Proof.Machine

/-- `AUX`: the frame's last byte is decoded as the auxiliary vector and produces no packet (R73, R74, R150). -/
def execAux (b : Byte) (s : State) : Result :=
  whileRunning s true (.next (s.setAuxVec (auxVector b)))

/-- The class of half-word `i` with this low Entry, in this state (R79). -/
def State.halfClassOf (s : State) (i : HalfIndex) (lo : Entry) : HalfClass :=
  halfClass (ctrlBit lo.byte) (auxBit s.auxVec i) s.curValid

/-- `HW_ID_IMM` (R151). -/
def execHwIdImm (i : HalfIndex) (lo hi : Entry) (s : State) : Result :=
  whileRunning s (s.halfClassOf i lo == .idImm) <|
    andThen (execSend (idField lo.byte) hi.byte hi.off hi.ts s) fun t => .next (t.setCurId (idField lo.byte))

/-- `HW_ID_DELAY` (R152): the byte still belongs to the old channel. -/
def execHwIdDelay (i : HalfIndex) (lo hi : Entry) (s : State) : Result :=
  whileRunning s (s.halfClassOf i lo == .idDelay) <|
    match s.curId with
    | some c => andThen (execSend c hi.byte hi.off hi.ts s) fun t => .next (t.setCurId (idField lo.byte))
    | none => .refused .outsideClass

/-- `HW_ID_ORPHAN` (R153). -/
def execHwIdOrphan (i : HalfIndex) (lo hi : Entry) (s : State) : Result :=
  whileRunning s (s.halfClassOf i lo == .idOrphan) <|
    .next (((s.countOrphan).log (.orphanedByte hi.off)).setCurId (idField lo.byte))

/-- `raise FAULT_NO_CURRENT_ID` (R173). -/
def State.raiseNoCurrentId (s : State) (hwIndex : Fin Config.halfWords) (off : Offset) : State :=
  s.terminate .faultNoCurrentId (.noCurrentId hwIndex off)

/-- `HW_DATA` (R154). -/
def execHwData (i : HalfIndex) (lo hi : Entry) (s : State) : Result :=
  whileRunning s (s.halfClassOf i lo == .data) <|
    match s.curId with
    | none => .next (s.raiseNoCurrentId i.castSucc lo.off)
    | some c =>
      andThen (execSend c (dataDatum lo.byte (auxBit s.auxVec i)) lo.off lo.ts s) fun t =>
        execSend c hi.byte hi.off hi.ts t

/-- `HW_LAST_ID` (R155). -/
def execHwLastId (lo : Entry) (_x : Byte) (s : State) : Result :=
  whileRunning s (ctrlBit lo.byte) (.next (s.setCurId (idField lo.byte)))

/-- `HW_LAST_DATA` (R156). -/
def execHwLastData (lo : Entry) (_x : Byte) (s : State) : Result :=
  whileRunning s (!ctrlBit lo.byte) <|
    match s.curId with
    | none => .next (s.raiseNoCurrentId lastHalfIndex lo.off)
    | some c => execSend c lo.byte lo.off lo.ts s

/-- Runs the meaning of a half-word's class. -/
def runHalfClass (c : HalfClass) (i : HalfIndex) (lo hi : Entry) (s : State) : Result :=
  match c with
  | .idImm => execHwIdImm i lo hi s
  | .idDelay => execHwIdDelay i lo hi s
  | .idOrphan => execHwIdOrphan i lo hi s
  | .data => execHwData i lo hi s

/-- Half-word `i` of the walk: entries `2i` and `2i + 1`, classed by the state the walk has reached (R71, R150). -/
def demuxHalf (i : HalfIndex) (s : State) : Result :=
  withEntry s (lowIndex i) fun lo => withEntry s (highIndex i) fun hi =>
    runHalfClass (s.halfClassOf i lo) i lo hi s

/-- The last half-word of the walk: its low entry, with the aux byte in the high byte's place (R74, R150). -/
def demuxLast (s : State) : Result :=
  withEntry s (lowIndex Config.lastHalf) fun lo => withEntry s (highIndex Config.lastHalf) fun hi =>
    if ctrlBit lo.byte then execHwLastId lo hi.byte s else execHwLastData lo hi.byte s

/-- The walk over the half-words at indices `is` and then the last half-word, strictly in order (R150). -/
def demuxWalk : List HalfIndex → State → Result
  | [], s => demuxLast s
  | i :: is, s => andThen (demuxHalf i s) (demuxWalk is)

/-- `DEMUX` (R150). -/
def execDemux (s : State) : Result :=
  whileRunning s (s.n.val == Config.frameSize) <|
    withEntry s Config.auxIndex fun e => andThen (execAux e.byte s) (demuxWalk halfIndices)

end Sys2Proof.Machine
end

