-- ==== Sys2Proof/Machine/Validator.lean ====
section
/-! DEFINITION. The frame validator: the byte check (R140) and the frame check (R141). Neither writes any state of R20's
list; the answer is handed to the driver in `verdict`. -/

namespace Sys2Proof.Machine

/-- What the frame check asks of half-word `i`'s low byte: if its control bit is set, its ID is NULL, or it is a member
and (unless intermixing is enabled) `i = 0` (R141). -/
def lowByteOk (member : MemberTable) (intermix : Bool) (i : Nat) (lo : Byte) : Bool :=
  !ctrlBit lo || idField lo == Config.nullId || (isMember member (idField lo) && (intermix || i == 0))

/-- `frame_check` on the low bytes of the half-words in order, the only bytes it reads (R141, R142). -/
def lowBytesOk (member : MemberTable) (intermix : Bool) (lows : List Byte) : Bool :=
  lows.zipIdx.all fun p => lowByteOk member intermix p.2 p.1

/-- The Entries at indices `js`, where every one of them holds a value. -/
def State.entriesAt (s : State) : List Nat → Option (List Entry)
  | [] => some []
  | j :: js =>
    match s.memRead j with
    | some e => (s.entriesAt js).map (e :: ·)
    | none => none

/-- The frame check of the buffer, under the latched table and policy (R126, R141, R143). -/
def State.frameOk (s : State) : Option Bool :=
  (s.entriesAt lowIndices).map fun es => lowBytesOk s.member s.intermix (es.map (·.byte))

/-- `BYTE_CHECK` (R140). -/
def execByteCheck (b : Byte) (s : State) : Result :=
  whileRunning s true (.next (s.setVerdict (passesByteCheck s.member b)))

/-- `FRAME_CHECK` of the full buffer (R141). -/
def execFrameCheck (s : State) : Result :=
  whileRunning s (s.n.val == Config.frameSize) <|
    match s.frameOk with
    | some ok => .next (s.setVerdict ok)
    | none => .fault .unwrittenEntry

end Sys2Proof.Machine
end

