-- ==== Sys2Proof/Machine/Frame.lean ====
section
/-! DEFINITION. The completed frame: `FRAME_COMPLETE` (R126) and the five rows it ends in (R127 to R131). -/

namespace Sys2Proof.Machine

/-- The buffer is full and its frame's row (R126) is `c`. -/
def State.frameIs (s : State) (c : FrameClass) : Bool :=
  s.n.val == Config.frameSize && s.frameOk.bind (fun ok => frameClass s.mode ok s.consec) == some c

/-- `SEARCH_FRAME_VALID` (R127). -/
def execSearchFrameValid (s : State) : Result :=
  whileRunning s (s.frameIs .searchValid) <|
    withEntry s 0 fun e => andThen (execDemux (s.log (.validFrame e.off))) fun t =>
      .next (((t.countValid.setMode .framing).setConsec 1).dropFrame)

/-- The rescan: the first candidate index that passes the byte check is where the buffer is compacted to; if none
passes, the buffer is emptied (R128). -/
def rescan : List Nat → State → Result
  | [], s => .next s.dropFrame
  | j :: js, s => withEntry s j fun e => if passesByteCheck s.member e.byte then .next (s.compact j) else rescan js s

/-- The candidate start indices, every one but 0: `1..15` (R128, 90_conflicts.md C3). -/
def candidates : List Nat := List.range' 1 (Config.frameSize - 1)

/-- `SEARCH_FRAME_INVALID` (R128). -/
def execSearchFrameInvalid (s : State) : Result :=
  whileRunning s (s.frameIs .searchInvalid) (rescan candidates s.countInvalid)

/-- `FRAME_VALID` (R129). -/
def execFrameValid (s : State) : Result :=
  whileRunning s (s.frameIs .valid) <|
    andThen (execDemux s) fun t => .next ((t.countValid.setConsec (satInc t.consec)).dropFrame)

/-- `FRAME_INVALID_TOLERATED` (R130). -/
def execFrameInvalidTolerated (s : State) : Result :=
  whileRunning s (s.frameIs .invalidTolerated) <|
    withEntry s 0 fun e => .next (((s.countInvalid.log (.invalidFrame s.consec e.off)).setConsec 0).dropFrame)

/-- `FRAME_INVALID_RESUME` (R131). -/
def execFrameInvalidResume (s : State) : Result :=
  whileRunning s (s.frameIs .invalidResume) <|
    withEntry s 0 fun e => .next (((s.countInvalid.log (.resumeSearch e.off)).setMode .searching).dropFrame)

/-- Runs the meaning of a completed frame's row. -/
def runFrameClass (c : FrameClass) (s : State) : Result :=
  match c with
  | .searchValid => execSearchFrameValid s
  | .searchInvalid => execSearchFrameInvalid s
  | .valid => execFrameValid s
  | .invalidTolerated => execFrameInvalidTolerated s
  | .invalidResume => execFrameInvalidResume s

/-- `FRAME_COMPLETE`: the frame check, and then the one row its answer, the mode and `consec` select (R126). -/
def execFrameComplete (s : State) : Result :=
  whileRunning s (s.n.val == Config.frameSize && !s.mode.syncing) <|
    andThen (execFrameCheck s) fun t =>
      match t.verdict.bind (fun ok => frameClass t.mode ok t.consec) with
      | some c => runFrameClass c t
      | none => .refused .outsideClass

end Sys2Proof.Machine
end

