-- ==== Sys2Proof/Machine/Collect.lean ====
section
/-! DEFINITION. Collecting a frame: the byte classes that store or discard a byte the matcher handed on (R122 to R125). -/

namespace Sys2Proof.Machine

/-- The driver's class of byte `b` in this state is `c` (R80, R122); the driver classes bytes at `n = 0`. -/
def State.driverIs (s : State) (b : Byte) (c : DriverClass) : Bool :=
  s.n.val == 0 && driverClass s.mode s.member b == some c

/-- `CAND_ACCEPT` (R123). -/
def execCandAccept (b : Byte) (ts : Timestamp) (s : State) : Result :=
  whileRunning s (s.driverIs b .candAccept) (.next (s.append (s.entryOf b ts)))

/-- `CAND_DISCARD`: the byte is lost for good (R123). -/
def execCandDiscard (b : Byte) (_ts : Timestamp) (s : State) : Result :=
  whileRunning s (s.driverIs b .candDiscard) (.next s)

/-- `FRAME_FIRST`: no check gates the byte (R124). -/
def execFrameFirst (b : Byte) (ts : Timestamp) (s : State) : Result :=
  whileRunning s (s.driverIs b .frameFirst) (.next (s.append (s.entryOf b ts)))

/-- `FRAME_BYTE`: the byte is stored whatever its value, and the sixteenth completes the frame in the same event
(R125, R126). -/
def execFrameByte (b : Byte) (ts : Timestamp) (s : State) : Result :=
  whileRunning s (matchClass s.mode s.n.val b == .frameByte && s.n.val < Config.frameSize) <|
    let t := s.append (s.entryOf b ts)
    if t.n.val = Config.frameSize then execFrameComplete t else .next t

end Sys2Proof.Machine
end

