-- ==== Sys2Proof/Machine/Matcher.lean ====
section
/-! DEFINITION. The sync-pattern matcher and framing state machine: one meaning for each of its byte classes (R100 to
R106), the hand-over to the driver, and the table of legal transitions (R108) with its check (R109). -/

namespace Sys2Proof.Machine

/-- The matcher's class of byte `b` in this state (R80, R110). -/
def State.matchClassOf (s : State) (b : Byte) : MatchClass := matchClass s.mode s.n.val b

/-- `SYNC_START` (R100). -/
def execSyncStart (s : State) : Result :=
  whileRunning s (s.matchClassOf syncFirst == .syncStart) <|
    match s.mode.startSync with
    | some m => .next (s.setMode m)
    | none => .refused .outsideClass

/-- `SYNC_ADVANCE` (R101); its operands are the modes with `k` in 1..2. -/
def execSyncAdvance (s : State) : Result :=
  whileRunning s true <|
    match s.mode.advanceSync with
    | some m => .next (s.setMode m)
    | none => .refused .outsideClass

/-- `SYNC_COMPLETE_S` (R102). -/
def execSyncCompleteS (s : State) : Result :=
  whileRunning s (s.mode == .searchingSyncing .three) (.next ((s.setMode .framing).log (.syncFound s.offset)))

/-- `SYNC_COMPLETE_F` (R103): no diagnostic. -/
def execSyncCompleteF (s : State) : Result :=
  whileRunning s (s.mode == .framingSyncing .three) (.next (s.setMode .framing))

/-- `SYNC_ABORT_S` (R104): the byte is consumed and not examined again. -/
def execSyncAbortS (b : Byte) (s : State) : Result :=
  whileRunning s (s.matchClassOf b == .syncAbortS) (.next (s.setMode .searching))

/-- `SYNC_DERAIL` (R105). -/
def execSyncDerail (b : Byte) (s : State) : Result :=
  whileRunning s (s.matchClassOf b == .syncDerail) (.next ((s.setMode .searching).log (.framingDerailed s.offset)))

/-- `NO_SYNC` (R106): the mode stays and the byte is handed to the driver, which asks the byte check about it while
`Searching` and takes it unchecked while `Framing` (R122, R123, R124). -/
def execNoSync (b : Byte) (ts : Timestamp) (s : State) : Result :=
  whileRunning s (s.matchClassOf b == .noSync) <|
    match s.mode with
    | .searching => andThen (execByteCheck b s) fun t =>
      if t.verdict = some true then execCandAccept b ts t else execCandDiscard b ts t
    | .framing => execFrameFirst b ts s
    | .searchingSyncing _ => .refused .outsideClass
    | .framingSyncing _ => .refused .outsideClass

/-- Runs the meaning of an input byte's class (R110, R122). -/
def runMatchClass (c : MatchClass) (b : Byte) (ts : Timestamp) (s : State) : Result :=
  match c with
  | .syncStart => execSyncStart s
  | .syncAdvance => execSyncAdvance s
  | .syncCompleteS => execSyncCompleteS s
  | .syncCompleteF => execSyncCompleteF s
  | .syncAbortS => execSyncAbortS b s
  | .syncDerail => execSyncDerail b s
  | .noSync => execNoSync b ts s
  | .frameByte => execFrameByte b ts s

/-- The legal `(mode before, mode after)` pairs of one BYTE event: the 18 pairs of R108's table, row by row. -/
def legalPairs : List (Mode × Mode) :=
  [(.searching, .searching), (.searching, .searchingSyncing .one), (.searching, .framing),
   (.searchingSyncing .one, .searchingSyncing .two), (.searchingSyncing .two, .searchingSyncing .three),
   (.searchingSyncing .three, .framing),
   (.searchingSyncing .one, .searching), (.searchingSyncing .two, .searching), (.searchingSyncing .three, .searching),
   (.framing, .framing), (.framing, .framingSyncing .one), (.framing, .searching),
   (.framingSyncing .one, .framingSyncing .two), (.framingSyncing .two, .framingSyncing .three),
   (.framingSyncing .three, .framing),
   (.framingSyncing .one, .searching), (.framingSyncing .two, .searching), (.framingSyncing .three, .searching)]

/-- The transition check at the end of an event that did not already stop (R109, R174, R177). -/
def checkTransition (before : Mode) (s : State) : State :=
  if (before, s.mode) ∈ legalPairs then s
  else s.terminate .faultIllegalTransition (.illegalTransition before s.mode s.offset)

end Sys2Proof.Machine
end

