-- ==== Sys2Proof/Machine/Events.lean ====
section
/-! DEFINITION. The events of the input port: `BYTE` (R121), `END` (R132) and `SRC_ERR` (R133). -/

namespace Sys2Proof.Machine

/-- `BYTE(b, ts)`: the byte is counted, classed by the matcher and handled by its class's meaning, and the transition
check ends the event (R109, R121, R122). A run longer than `2^OFFSET_BITS - 1` bytes is refused (R11, I7). -/
def execByte (b : Byte) (ts : Timestamp) (s : State) : Result :=
  whileRunning s true <|
    if s.offset = BitVec.allOnes Config.offsetBits then .refused .runTooLong
    else
      let s1 := s.countByte
      andThen (runMatchClass (s1.matchClassOf b) b ts s1) fun t => .next (checkTransition s.mode t)

/-- `END`: the summary, and the one normal end of a run; a partial frame or sync match is dropped (R132). -/
def execEndStream (s : State) : Result :=
  whileRunning s true (.next ((s.log (.summary s.totalValid)).terminate .done (.total s.totalValid)))

/-- `SRC_ERR(err)`: the run is aborted, without a summary (R133, R171). -/
def execSrcErr (err : ErrValue) (s : State) : Result :=
  whileRunning s true (.next (s.terminate .abortedSrc (.err err)))

end Sys2Proof.Machine
end

