-- ==== Sys2Proof/Machine/Dispatch.lean ====
section
/-! DEFINITION. One arm per constructor of `Instr`, each one direct call of the operation's meaning. -/

namespace Sys2Proof.Machine

/-- What operation `i` does in state `s`. -/
def exec (i : Instr) (s : State) : Host.Outcome State Fault Refusal :=
  match i with
  | .byte b ts => Sys2Proof.Machine.execByte b ts s
  | .endStream => Sys2Proof.Machine.execEndStream s
  | .srcErr err => Sys2Proof.Machine.execSrcErr err s
  | .sinkErr err => Sys2Proof.Machine.execSinkErr err s
  | .syncStart => Sys2Proof.Machine.execSyncStart s
  | .syncAdvance => Sys2Proof.Machine.execSyncAdvance s
  | .syncCompleteS => Sys2Proof.Machine.execSyncCompleteS s
  | .syncCompleteF => Sys2Proof.Machine.execSyncCompleteF s
  | .syncAbortS b => Sys2Proof.Machine.execSyncAbortS b s
  | .syncDerail b => Sys2Proof.Machine.execSyncDerail b s
  | .noSync b ts => Sys2Proof.Machine.execNoSync b ts s
  | .candAccept b ts => Sys2Proof.Machine.execCandAccept b ts s
  | .candDiscard b ts => Sys2Proof.Machine.execCandDiscard b ts s
  | .frameFirst b ts => Sys2Proof.Machine.execFrameFirst b ts s
  | .frameByte b ts => Sys2Proof.Machine.execFrameByte b ts s
  | .frameComplete => Sys2Proof.Machine.execFrameComplete s
  | .byteCheck b => Sys2Proof.Machine.execByteCheck b s
  | .frameCheck => Sys2Proof.Machine.execFrameCheck s
  | .searchFrameValid => Sys2Proof.Machine.execSearchFrameValid s
  | .searchFrameInvalid => Sys2Proof.Machine.execSearchFrameInvalid s
  | .frameValid => Sys2Proof.Machine.execFrameValid s
  | .frameInvalidTolerated => Sys2Proof.Machine.execFrameInvalidTolerated s
  | .frameInvalidResume => Sys2Proof.Machine.execFrameInvalidResume s
  | .demux => Sys2Proof.Machine.execDemux s
  | .hwIdImm k lo hi => Sys2Proof.Machine.execHwIdImm k lo hi s
  | .hwIdDelay k lo hi => Sys2Proof.Machine.execHwIdDelay k lo hi s
  | .hwIdOrphan k lo hi => Sys2Proof.Machine.execHwIdOrphan k lo hi s
  | .hwData k lo hi => Sys2Proof.Machine.execHwData k lo hi s
  | .hwLastId lo x => Sys2Proof.Machine.execHwLastId lo x s
  | .hwLastData lo x => Sys2Proof.Machine.execHwLastData lo x s
  | .aux b => Sys2Proof.Machine.execAux b s
  | .send id datum off ts => Sys2Proof.Machine.execSend id datum off ts s

end Sys2Proof.Machine
end

