-- ==== Sys2Proof/Machine/Fetch.lean ====
section
/-! DEFINITION. How the block takes the host's next action, and how a bare table word is put where it does. -/

namespace Sys2Proof.Machine

/-- Takes the host's next action from the input port: an event is executed completely, with every output it makes (R3,
R120), and only while `status = RUNNING` (R134: the events' meanings refuse it otherwise); a reset is applied in any
status (R190, D28). With no action there the pull is unanswered and the block is stuck (R68, I10); in a terminal status
it pulls nothing (R134). -/
def takeAction (s : State) : Result :=
  match s.input with
  | .event e :: rest => exec e.instr (s.takeInput rest)
  | .reset member intermix :: rest => .next ((s.takeInput rest).applyReset member intermix)
  | [] => if s.status = .running then .fault .awaitingEvent else .refused .runEnded

/-- The event put in front of the input port. -/
def State.withEvent (s : State) (e : Event) : State := { s with input := .event e :: s.input }

/-- A frame whose first half-word is this one and whose other half-words are NULL filler, one byte short of complete, with
that byte at the input port: the way a half-word comes to be executed. The table takes every ID and the sink answers,
so that half-word 0 is reached and runs (notes/assumptions/9.md). -/
def State.withHalfWord (s : State) (lo hi : Byte) : State :=
  let entry (b : Byte) : Option Entry := some { byte := b, ts := 0, off := 0 }
  { s with
      mode := .framing
      buf := Vector.ofFn fun j =>
        if j.val = lowIndex 0 then entry lo else if j.val = highIndex 0 then entry hi
        else if j.val = Config.auxIndex then none else entry (if j.val % 2 = 0 then 1 else 0)
      n := ⟨Config.auxIndex, by decide⟩
      member := BitVec.allOnes Config.tableSize
      answers := [.ok, .ok] ++ s.answers
      input := .event (.byte 0 0) :: s.input }

/-- The state with the table word of `nbits` bits where the next step takes it (Decode.lean, `decodeTableWord`). -/
def State.placeWord (s : State) (nbits w : Nat) : State :=
  if nbits = 0 then s.withEvent .endStream
  else if nbits = 8 then s.withEvent (.byte (BitVec.ofNat 8 w) 0)
  else if nbits = 16 then s.withHalfWord (BitVec.ofNat 8 w) (BitVec.ofNat 8 (w / 256))
  else s

end Sys2Proof.Machine
end

