-- ==== Sys2Proof/Machine/Step.lean ====
section
/-! DEFINITION. One step of the block: one action of the host at its inputs (R3, R120, R190). -/

namespace Sys2Proof.Machine

/-- One step: the host's next action, taken and done completely. -/
def step (s : State) : Host.Outcome State Fault Refusal := takeAction s

/-- The state in which the next step runs the operation `decodeTableWord nbits w` names (notes/assumptions/9.md). -/
def State.withFetchWord (s : State) (nbits w : Nat) : State := s.placeWord nbits w

end Sys2Proof.Machine
end

