-- ==== Sys2Proof/Machine/Stimulus.lean ====
section
/-! DEFINITION. The stimulus notation (R84 to R86): the written form of a run's input, and its expansion into the host's
actions and the sink's answers. -/

namespace Sys2Proof.Machine

/-- The forms of the half-words before the last in a `frame` statement (R86). -/
inductive HalfForm where
  /-- `id N, D`. -/
  | id (c : ChanId) (d : Byte)
  /-- `idd N, D`: a delayed ID. -/
  | idd (c : ChanId) (d : Byte)
  /-- `data D1, D2`. -/
  | data (d1 d2 : Byte)
  deriving DecidableEq, Repr

/-- The forms of the last half-word (R86). -/
inductive LastForm where
  /-- `lastid N`. -/
  | lastId (c : ChanId)
  /-- `lastdata D`. -/
  | lastData (d : Byte)
  deriving DecidableEq, Repr

/-- A `frame` statement (R86). -/
structure FrameStmt where
  halves : List HalfForm
  last   : LastForm
  deriving DecidableEq, Repr

/-- `(N << 1) | 1`: the low byte of an ID half-word (R86). -/
def idLow (id : ChanId) : Byte := (id.zeroExtend 8 <<< 1) ||| 1

/-- The low and high byte of a half-word form (R86). -/
def HalfForm.bytes : HalfForm → List Byte
  | .id c d => [idLow c, d]
  | .idd c d => [idLow c, d]
  | .data d1 d2 => [d1 &&& 0xFE, d2]

/-- The aux bit of a half-word form (R86). -/
def HalfForm.auxOf : HalfForm → Bool
  | .id _ _ => false
  | .idd _ _ => true
  | .data d1 _ => d1.getLsbD 0

/-- The low byte of a frame's last half-word, `buf[14]` (R86). -/
def LastForm.byte : LastForm → Byte
  | .lastId c => idLow c
  | .lastData d => d

/-- The aux vector of the forms, the first form's bit lowest (R86). -/
def auxOfForms : List HalfForm → AuxVector
  | [] => 0
  | h :: hs => (auxOfForms hs <<< 1) ||| (BitVec.ofBool h.auxOf).zeroExtend Config.auxBits

/-- A `frame` statement that R86 does not refuse: every half-word before the last, and a `lastdata` whose bit 0 is
clear. -/
def FrameStmt.valid (f : FrameStmt) : Bool :=
  f.halves.length == Config.lastHalf && match f.last with
    | .lastId _ => true
    | .lastData d => !ctrlBit d

/-- The bytes of a frame (R86): `buf[15] = A << 1`. -/
def FrameStmt.bytes (f : FrameStmt) : List Byte :=
  f.halves.flatMap HalfForm.bytes ++ [f.last.byte, (auxOfForms f.halves).zeroExtend 8 <<< Config.auxLow]

/-- The `(id, datum)` pairs written into a frame's half-words, the data forms under the ID in force, and then those of
the last (R161). `lastid` contributes none. -/
def writtenPairs (last : LastForm) : List HalfForm → ChanId → List (ChanId × Byte)
  | [], cur =>
    match last with
    | .lastId _ => []
    | .lastData d => [(cur, d)]
  | .id c d :: hs, _ => (c, d) :: writtenPairs last hs c
  | .idd c d :: hs, cur => (cur, d) :: writtenPairs last hs c
  | .data d1 d2 :: hs, cur => (cur, d1) :: (cur, d2) :: writtenPairs last hs cur

/-- One statement of the notation that stands for events (R84, R85, R86). -/
inductive Stim where
  | bytes (bs : List Byte)
  | ts (t : Timestamp)
  | endStream
  | srcErr (err : ErrValue)
  | sync
  | frame (f : FrameStmt)
  deriving DecidableEq, Repr

/-- The bytes a statement expands to (R84 to R86); a refused `frame` expands to none. -/
def Stim.toBytes : Stim → List Byte
  | .bytes bs => bs
  | .ts _ => []
  | .endStream => []
  | .srcErr _ => []
  | .sync => Config.sync.toList
  | .frame f => if f.valid then f.bytes else []

/-- `BYTE` events for bytes whose first has offset `off`: each under the timestamp in force, or under `t<offset>` where
none has been given (R84). -/
def byteEvents (ts : Option Timestamp) : Nat → List Byte → List HostAction
  | _, [] => []
  | off, b :: bs => .event (.byte b (ts.getD (BitVec.ofNat Config.tsBits off))) :: byteEvents ts (off + 1) bs

/-- The host's actions for a program's statements, the next byte having offset `off` (R84). -/
def expand (ts : Option Timestamp) (off : Nat) : List Stim → List HostAction
  | [] => []
  | .ts t :: rest => expand (some t) off rest
  | .endStream :: rest => .event .endStream :: expand ts off rest
  | .srcErr e :: rest => .event (.srcErr e) :: expand ts off rest
  | .bytes bs :: rest => byteEvents ts off bs ++ expand ts (off + bs.length) rest
  | .sync :: rest => byteEvents ts off Stim.sync.toBytes ++ expand ts (off + Stim.sync.toBytes.length) rest
  | .frame f :: rest =>
    byteEvents ts off (Stim.frame f).toBytes ++ expand ts (off + (Stim.frame f).toBytes.length) rest

/-- `config member={ids}`: `MEMBER[i] = 1` exactly for the listed ids (R84). -/
def memberOf : List ChanId → MemberTable
  | [] => 0
  | c :: ids => (1 <<< c.toNat) ||| memberOf ids

/-- A program of the notation: its `config`, its `sinkfail` (the packet counted from 1, and the error), its statements. -/
structure Program where
  members  : List ChanId
  intermix : Bool
  sinkFail : Option (Nat × ErrValue)
  stmts    : List Stim
  deriving DecidableEq, Repr

/-- The sink's answers: `OK` to every packet before the `sinkfail` one and `SINK_ERR` to it, else `OK` to all; no run
offers more packets than it has bytes (R84). -/
def Program.answers (p : Program) : List SinkAnswer :=
  match p.sinkFail with
  | some (k, e) => List.replicate (k - 1) .ok ++ [.err e]
  | none => List.replicate (p.stmts.map (fun st => st.toBytes.length)).sum .ok

/-- The state from which a program runs: reset with its configuration, its events and answers at the ports. -/
def Program.load (p : Program) : State :=
  { State.resetWith (memberOf p.members) p.intermix with
      input := expand none 1 p.stmts
      answers := p.answers }

end Sys2Proof.Machine
end

