-- ==== Sys2Proof/Safety.lean ====
section
/-! DEFINITION. The terms claims are stated in: the invariant the block keeps between events, what a sink that accepts
packets is, what a full buffer holds, and what counts as a clean run. -/

namespace Sys2Proof.Machine

/-- The run has not ended in an internal invariant violation (R170 (3), R173, R174). -/
def State.unfaulted (s : State) : Bool :=
  s.status != .faultNoCurrentId && s.status != .faultIllegalTransition

/-- The run is going on or has ended the one normal way (R184). -/
def State.clean (s : State) : Bool := s.status == .running || s.status == .done

/-- The sink answers `OK` to the next `k` packets (R67). -/
def State.sinkAccepts (s : State) (k : Nat) : Prop := ∃ rest, s.answers = List.replicate k .ok ++ rest

/-- The buffer is full and entry `j` is `f j` (R126: the operands of a frame operation). -/
def State.holdsFrame (s : State) (f : Fin Config.frameSize → Entry) : Prop :=
  s.n.val = Config.frameSize ∧ ∀ j : Fin Config.frameSize, s.memRead j.val = some (f j)

/-- The terminal record has the form its status calls for (R33, R176). -/
def termMatches : Status → Option Term → Prop
  | .running, t => t = none
  | .done, t => ∃ c, t = some (.total c)
  | .abortedSrc, t => ∃ e, t = some (.err e)
  | .abortedSink, t => ∃ e, t = some (.err e)
  | .faultNoCurrentId, t => ∃ i off, t = some (.noCurrentId i off)
  | .faultIllegalTransition, t => ∃ m m' off, t = some (.illegalTransition m m' off)

/-- What holds of the block between events (R44), with the parts that carry it from one event to the next. -/
structure State.Inv (s : State) : Prop where
  /-- R44(a), R25. -/
  fill : s.status = .running → s.n.val < Config.frameSize
  /-- R44(b). -/
  syncing : s.mode.syncing = true → s.n.val = 0
  /-- R44(c). -/
  candidate : s.mode = .searching → ∀ e, s.memRead 0 = some e → passesByteCheck s.member e.byte = true
  /-- Every entry below `n` was written (R52). -/
  written : ∀ j, j < s.n.val → (s.memRead j).isSome = true
  /-- R44(d), between neighbours. -/
  rising : ∀ j e e', s.memRead j = some e → s.memRead (j + 1) = some e' → e.off < e'.off
  /-- R44(d), against the offset register. -/
  counted : ∀ j e, s.memRead j = some e → e.off ≤ s.offset
  /-- R44(e). -/
  silent : s.curId = none → s.delivered = []
  /-- R33: `term` is written exactly when `status` leaves `RUNNING`. -/
  termed : termMatches s.status s.term
  /-- R109: the transition check has never fired. -/
  legal : s.status ≠ .faultIllegalTransition
  /-- R63: packets were delivered in strictly increasing offset order. -/
  ordered : (s.delivered.map (·.off)).Pairwise (· < ·)
  /-- Between events every delivered packet is older than every buffered entry and than the next byte. -/
  older : s.status = .running → ∀ p ∈ s.delivered,
    p.off ≤ s.offset ∧ ∀ j e, s.memRead j = some e → p.off < e.off

end Sys2Proof.Machine
end

