-- ==== Sys2Proof/Certificates/Slice0/Obligations.lean ====
section
/-! DEFINITION. The statements about the block. Each docstring names the rule of the spec it states. A statement that
says `= .next { s with … }` gives the operation's whole effect and, with it, its frame: every field not named is
unchanged. -/

open Sys2Proof Sys2Proof.Machine

namespace Sys2Proof.Machine

/-- `sat_inc` as R11 states it: an increment at `2^CNT_BITS - 1` leaves the counter there. -/
def saturated (c : Counter) : Counter := if c.toNat = 2 ^ 32 - 1 then c else c + 1

/-- The state after `Send(id, datum, e)` when the packet is NULL or the sink answers `OK` (R157). -/
def sentOk (s : State) (id : ChanId) (datum : Byte) (e : Entry) : State :=
  if id = 0 then s
  else { s with
    answers := s.answers.tail
    out := s.out ++ [.packet { id := id.zeroExtend 8, datum := datum, off := e.off, ts := e.ts }] }

/-- The state after a packet the sink refused with `err` (R157, R172, R178). -/
def sentRefused (s : State) (id : ChanId) (datum : Byte) (e : Entry) (err : ErrValue) : State :=
  { s with
    answers := s.answers.tail
    out := s.out ++ [.refusedPacket { id := id.zeroExtend 8, datum := datum, off := e.off, ts := e.ts },
      .ended .abortedSink]
    status := .abortedSink
    term := some (.err err) }

/-- The sink accepts the next packet, or the packet is NULL and is not offered (R157). -/
def acceptsNext (s : State) (id : ChanId) : Prop := id = 0 ∨ s.answers.head? = some .ok

/-- A byte as R140's byte check reads it: bit 0 set, and the table entry at bits 7:1 set. -/
def plausible (member : MemberTable) (b : Byte) : Prop :=
  b.getLsbD 0 = true ∧ member.getLsbD (b.toNat / 2) = true

/-- The frame check as R141 states it. -/
def framePasses (s : State) (f : Fin 16 → Entry) : Prop :=
  ∀ i : Fin 8, (f ⟨2 * i.val, by omega⟩).byte.getLsbD 0 = true →
    (f ⟨2 * i.val, by omega⟩).byte.toNat / 2 = 0 ∨
      (s.member.getLsbD ((f ⟨2 * i.val, by omega⟩).byte.toNat / 2) = true ∧ (s.intermix = true ∨ i.val = 0))

/-- The frame starts with an ID half-word, or there is a Current Channel ID already: no data half-word of it is reached
with `cur_id = None` (R136, R197). -/
def channelKnown (s : State) (f : Fin 16 → Entry) : Prop :=
  s.curId.isSome = true ∨ (f 0).byte.getLsbD 0 = true

/-- R150's walk, each half-word executed as the operation its bytes decode to at the state the walk has reached. -/
def walkByRows (f : Fin 16 → Entry) : List (Fin 7) → State → Result
  | [], s =>
    match decode .lastHalfWord (lastHalfWordBytes (f 14) (f 15).byte) with
    | .ok i => exec i s
    | .error _ => .refused .outsideClass
  | k :: ks, s =>
    match decode (.halfWord k s.auxVec s.curId.isSome)
        (halfWordBytes (f ⟨2 * k.val, by omega⟩) (f ⟨2 * k.val + 1, by omega⟩)) with
    | .ok i =>
      match exec i s with
      | .next t => if t.status = .running then walkByRows f ks t else .next t
      | .fault r => .fault r
      | .refused r => .refused r
    | .error _ => .refused .outsideClass

/-- R110's `sync_step`, in the codes of R21: `none` where the byte is handed on, else the new mode's code and the
diagnostic. `k` is `mode[1:0]`, the family is `mode[2]`. -/
def syncStep (mode : Nat) (n : Nat) (b : Byte) (offset : Offset) : Option (Nat × List Diag) :=
  let k := mode % 4
  let framed := mode / 4 = 1
  let sync : List Byte := [0xFF, 0xFF, 0xFF, 0x7F]
  if k ≠ 0 then
    if sync[k]? = some b then
      if k + 1 < 4 then some (mode + 1, [])
      else some (4, if framed then [] else [.syncFound offset])
    else some (0, if framed then [.framingDerailed offset] else [])
  else if n = 0 ∧ sync[0]? = some b then some (mode + 1, [])
  else none

/-- The 18 pairs of R108's table, in the codes of R21. -/
def legalCodes : List (Nat × Nat) :=
  [(0, 0), (0, 1), (0, 4), (1, 2), (2, 3), (3, 4), (1, 0), (2, 0), (3, 0),
   (4, 4), (4, 5), (4, 0), (5, 6), (6, 7), (7, 4), (5, 0), (6, 0), (7, 0)]

/-- The state with every timestamp at its ports and in its buffer passed through `g`. -/
def State.mapTs (g : Timestamp → Timestamp) (s : State) : State :=
  { s with
    buf := s.buf.map (Option.map fun e => { e with ts := g e.ts })
    input := s.input.map fun a => match a with
      | .event (.byte b ts) => .event (.byte b (g ts))
      | .event .endStream => .event .endStream
      | .event (.srcErr err) => .event (.srcErr err)
      | .reset member intermix => .reset member intermix
    out := s.out.map fun o => match o with
      | .packet p => .packet { p with ts := g p.ts }
      | .refusedPacket p => .refusedPacket { p with ts := g p.ts }
      | .diag d => .diag d
      | .ended st => .ended st }

/-- The same on what an operation answers. -/
def resultMapTs (g : Timestamp → Timestamp) : Result → Result
  | .next s => .next (s.mapTs g)
  | .fault r => .fault r
  | .refused r => .refused r

end Sys2Proof.Machine

/-! ### Encoding -/

/-- Decoding the encoding of a well-formed operation, in any context that admits it and whatever bytes follow, gives the
operation back. The layout of operands the table gives no bits is the model's (notes/assumptions/4.md). -/
def Obligations.EncodedOperationsDecodeBack : Prop :=
  ∀ (i : Instr) (c : Ctx) (rest : List Byte),
    i.wellFormed = true → i.admits c = true → decode c (encode i ++ rest) = .ok i

/-- What the decoder reads is well formed, admitted by the context, and the bytes read are exactly its encoding. -/
def Obligations.DecodedBytesAreTheEncoding : Prop :=
  ∀ (c : Ctx) (w : List Byte) (i : Instr), decode c w = .ok i →
    i.wellFormed = true ∧ i.admits c = true ∧ ∃ rest, w = encode i ++ rest

/-- R80's table, row by row: when a byte is each class. `NO_SYNC` is R106. -/
def Obligations.InputBytesAreClassedByTheTable : Prop :=
  ∀ (m : Mode) (n : Nat) (member : MemberTable) (b : Byte) (ts : Timestamp),
    (m.syncing = true → n = 0) → n ≤ 15 →
    (decode (.matcher m n) (b :: word64Bytes ts) = .ok .syncStart ↔
      (m = .searching ∨ m = .framing) ∧ n = 0 ∧ b = 0xFF) ∧
    (decode (.matcher m n) (b :: word64Bytes ts) = .ok .syncAdvance ↔
      (m = .searchingSyncing .one ∨ m = .searchingSyncing .two ∨ m = .framingSyncing .one ∨ m = .framingSyncing .two)
        ∧ b = 0xFF) ∧
    (decode (.matcher m n) (b :: word64Bytes ts) = .ok .syncCompleteS ↔ m = .searchingSyncing .three ∧ b = 0x7F) ∧
    (decode (.matcher m n) (b :: word64Bytes ts) = .ok .syncCompleteF ↔ m = .framingSyncing .three ∧ b = 0x7F) ∧
    (decode (.matcher m n) (b :: word64Bytes ts) = .ok (.syncAbortS b) ↔
      (m = .searchingSyncing .one ∧ b ≠ 0xFF) ∨ (m = .searchingSyncing .two ∧ b ≠ 0xFF) ∨
        (m = .searchingSyncing .three ∧ b ≠ 0x7F)) ∧
    (decode (.matcher m n) (b :: word64Bytes ts) = .ok (.syncDerail b) ↔
      (m = .framingSyncing .one ∧ b ≠ 0xFF) ∨ (m = .framingSyncing .two ∧ b ≠ 0xFF) ∨
        (m = .framingSyncing .three ∧ b ≠ 0x7F)) ∧
    (decode (.matcher m n) (b :: word64Bytes ts) = .ok (.frameByte b ts) ↔
      (m = .searching ∨ m = .framing) ∧ 1 ≤ n) ∧
    (decode (.matcher m n) (b :: word64Bytes ts) = .ok (.noSync b ts) ↔
      (m = .searching ∨ m = .framing) ∧ n = 0 ∧ b ≠ 0xFF) ∧
    (decode (.driver m member) (b :: word64Bytes ts) = .ok (.candAccept b ts) ↔
      m = .searching ∧ b ≠ 0xFF ∧ plausible member b) ∧
    (decode (.driver m member) (b :: word64Bytes ts) = .ok (.candDiscard b ts) ↔
      m = .searching ∧ b ≠ 0xFF ∧ ¬ plausible member b) ∧
    (decode (.driver m member) (b :: word64Bytes ts) = .ok (.frameFirst b ts) ↔ m = .framing ∧ b ≠ 0xFF)

/-- R79's table, row by row: when a half-word is each class. -/
def Obligations.HalfWordsAreClassedByTheTable : Prop :=
  ∀ (k : Fin 7) (a : AuxVector) (cur : Option ChanId) (lo hi : Entry) (x : Byte),
    (decode (.halfWord k a cur.isSome) (halfWordBytes lo hi) = .ok (.hwIdImm k lo hi) ↔
      lo.byte.getLsbD 0 = true ∧ a.getLsbD k.val = false) ∧
    (decode (.halfWord k a cur.isSome) (halfWordBytes lo hi) = .ok (.hwIdDelay k lo hi) ↔
      lo.byte.getLsbD 0 = true ∧ a.getLsbD k.val = true ∧ ∃ c, cur = some c) ∧
    (decode (.halfWord k a cur.isSome) (halfWordBytes lo hi) = .ok (.hwIdOrphan k lo hi) ↔
      lo.byte.getLsbD 0 = true ∧ a.getLsbD k.val = true ∧ cur = none) ∧
    (decode (.halfWord k a cur.isSome) (halfWordBytes lo hi) = .ok (.hwData k lo hi) ↔
      lo.byte.getLsbD 0 = false) ∧
    (decode .lastHalfWord (lastHalfWordBytes lo x) = .ok (.hwLastId lo x) ↔ lo.byte.getLsbD 0 = true) ∧
    (decode .lastHalfWord (lastHalfWordBytes lo x) = .ok (.hwLastData lo x) ↔ lo.byte.getLsbD 0 = false) ∧
    decode .auxByte [x] = .ok (.aux x)

/-- Words written out from R71 to R78, each read as the operation it stands for: the sync pattern, `07 42` and `20 22`
as half-words 0 and 1 with aux bits 0 and 1 (vector D4), `0B` at half-word 7 (D5), the aux byte `0E` (P3). -/
def Obligations.SpecWordsDecodeToTheirOperations : Prop :=
  decode (.matcher .searching 0) [0xFF] = .ok .syncStart ∧
  decode (.matcher (.searchingSyncing .two) 0) [0xFF] = .ok .syncAdvance ∧
  decode (.matcher (.searchingSyncing .three) 0) [0x7F] = .ok .syncCompleteS ∧
  decode (.matcher (.framingSyncing .one) 0) [0x00] = .ok (.syncDerail 0x00) ∧
  decode (.halfWord 0 0 false) ([0x07, 0x42] ++ List.replicate 32 0) = .ok (.hwIdImm 0 ⟨0x07, 0, 0⟩ ⟨0x42, 0, 0⟩) ∧
  decode (.halfWord 1 2 true) ([0x20, 0x22] ++ List.replicate 32 0) = .ok (.hwData 1 ⟨0x20, 0, 0⟩ ⟨0x22, 0, 0⟩) ∧
  decode .lastHalfWord ([0x0B, 0x00] ++ List.replicate 16 0) = .ok (.hwLastId ⟨0x0B, 0, 0⟩ 0x00) ∧
  decode .auxByte [0x0E] = .ok (.aux 0x0E)

/-! ### A step, and the operations that run others -/

/-- A step runs the event at the input port: it is `exec` of the operation the port's bytes decode to, at the state with
the event taken. -/
def Obligations.StepRunsTheEventAtThePort : Prop :=
  ∀ (s : State) (e : Event) (rest : List HostAction), s.input = .event e :: rest →
    decode (.port e.kind) (encode e.instr) = .ok e.instr ∧ step s = exec e.instr { s with input := rest }

/-- R121, R122 and R109: a `BYTE` event counts the byte and then is exactly the operation the byte decodes to at the
matcher; the transition check adds nothing. -/
def Obligations.ByteEventRunsTheClassItDecodesTo : Prop :=
  ∀ (s : State) (b : Byte) (ts : Timestamp) (i : Instr),
    s.status = .running → s.offset.toNat < 2 ^ 64 - 1 →
    decode (.matcher s.mode s.n.val) (b :: word64Bytes ts) = .ok i →
    exec (.byte b ts) s = exec i { s with offset := s.offset + 1 }

/-- R126: a completed frame is checked, and then is exactly the one row that the check's answer, the mode and `consec`
select. `verdict` is the model's own field (notes/assumptions/2.md). -/
def Obligations.CompletedFrameRunsTheRowItIs : Prop :=
  ∀ (s : State) (f : Fin 16 → Entry), s.status = .running → s.holdsFrame f →
    (s.mode = .searching → framePasses s f →
      exec .frameComplete s = exec .searchFrameValid { s with verdict := some true }) ∧
    (s.mode = .searching → ¬ framePasses s f →
      exec .frameComplete s = exec .searchFrameInvalid { s with verdict := some false }) ∧
    (s.mode = .framing → framePasses s f →
      exec .frameComplete s = exec .frameValid { s with verdict := some true }) ∧
    (s.mode = .framing → ¬ framePasses s f → s.consec ≠ 0 →
      exec .frameComplete s = exec .frameInvalidTolerated { s with verdict := some false }) ∧
    (s.mode = .framing → ¬ framePasses s f → s.consec = 0 →
      exec .frameComplete s = exec .frameInvalidResume { s with verdict := some false })

/-- R150: `DEMUX` decodes the aux vector and then executes the half-words strictly in index order, each as the row its
bytes decode to at the state reached so far, stopping at the first that ends the run. `auxVec` is the model's own field
(notes/assumptions/2.md). -/
def Obligations.DemuxWalksTheHalfWordsInOrder : Prop :=
  ∀ (s : State) (f : Fin 16 → Entry), s.status = .running → s.holdsFrame f →
    exec .demux s = walkByRows f [0, 1, 2, 3, 4, 5, 6] { s with auxVec := (f 15).byte.extractLsb' 1 7 }

/-! ### The sync-pattern matcher -/

/-- R100: a sync start, from each of its two modes. -/
def Obligations.SyncStartBeginsAMatch : Prop :=
  ∀ s : State, s.status = .running → s.n = 0 →
    (s.mode = .searching → exec .syncStart s = .next { s with mode := .searchingSyncing .one }) ∧
    (s.mode = .framing → exec .syncStart s = .next { s with mode := .framingSyncing .one })

/-- R101: the family is kept and `k` becomes `k + 1`. -/
def Obligations.SyncAdvanceKeepsTheFamily : Prop :=
  ∀ s : State, s.status = .running →
    (s.mode = .searchingSyncing .one → exec .syncAdvance s = .next { s with mode := .searchingSyncing .two }) ∧
    (s.mode = .searchingSyncing .two → exec .syncAdvance s = .next { s with mode := .searchingSyncing .three }) ∧
    (s.mode = .framingSyncing .one → exec .syncAdvance s = .next { s with mode := .framingSyncing .two }) ∧
    (s.mode = .framingSyncing .two → exec .syncAdvance s = .next { s with mode := .framingSyncing .three })

/-- R102 and R103: both completions lead to `Framing`; only the unaligned one is reported. -/
def Obligations.SyncCompletionFrames : Prop :=
  ∀ s : State, s.status = .running →
    (s.mode = .searchingSyncing .three →
      exec .syncCompleteS s = .next { s with mode := .framing, out := s.out ++ [.diag (.syncFound s.offset)] }) ∧
    (s.mode = .framingSyncing .three → exec .syncCompleteF s = .next { s with mode := .framing })

/-- R104 and R105: a mismatch at any `k` returns to `Searching`; only the aligned one is reported. -/
def Obligations.SyncMismatchReturnsToSearching : Prop :=
  ∀ (s : State) (b : Byte), s.status = .running →
    ((s.mode = .searchingSyncing .one ∧ b ≠ 0xFF ∨ s.mode = .searchingSyncing .two ∧ b ≠ 0xFF ∨
        s.mode = .searchingSyncing .three ∧ b ≠ 0x7F) →
      exec (.syncAbortS b) s = .next { s with mode := .searching }) ∧
    ((s.mode = .framingSyncing .one ∧ b ≠ 0xFF ∨ s.mode = .framingSyncing .two ∧ b ≠ 0xFF ∨
        s.mode = .framingSyncing .three ∧ b ≠ 0x7F) →
      exec (.syncDerail b) s = .next { s with mode := .searching, out := s.out ++ [.diag (.framingDerailed s.offset)] })

/-- R110: wherever the matcher's function consumes the byte, the `BYTE` event is exactly that: the byte counted, the mode
the function gives, the diagnostic it logs, and nothing else. Where it hands the byte on, the event is what the driver
does with the byte. -/
def Obligations.ByteEventsFollowTheMatcherFunction : Prop :=
  ∀ (s : State) (b : Byte) (ts : Timestamp), s.status = .running → s.offset.toNat < 2 ^ 64 - 1 →
    (∀ code ds, syncStep s.mode.code.toNat s.n.val b (s.offset + 1) = some (code, ds) →
      ∃ m : Mode, m.code.toNat = code ∧
        exec (.byte b ts) s =
          .next { s with offset := s.offset + 1, mode := m, out := s.out ++ ds.map .diag }) ∧
    (syncStep s.mode.code.toNat s.n.val b (s.offset + 1) = none →
      (s.n = 0 → exec (.byte b ts) s = exec (.noSync b ts) { s with offset := s.offset + 1 }) ∧
      (s.n ≠ 0 → exec (.byte b ts) s = exec (.frameByte b ts) { s with offset := s.offset + 1 }))

/-- R108 and R109: from every state, a `BYTE` event makes only transitions of the table, the other events leave the mode,
and the transition check never fires. -/
def Obligations.OnlyLegalTransitionsHappen : Prop :=
  ∀ (s t : State) (e : Event), exec e.instr s = .next t →
    (e.kind = .byte → (s.mode.code.toNat, t.mode.code.toNat) ∈ legalCodes) ∧ (e.kind ≠ .byte → t.mode = s.mode) ∧
      t.status ≠ .faultIllegalTransition

/-! ### Collecting a frame -/

/-- R123: while `Searching` a leading byte that passes the byte check is stored, any other is discarded. -/
def Obligations.CandidatesAreStoredOrDiscarded : Prop :=
  ∀ (s : State) (b : Byte) (ts : Timestamp), s.status = .running → s.mode = .searching → s.n = 0 → b ≠ 0xFF →
    (plausible s.member b →
      exec (.candAccept b ts) s = .next { s with buf := s.buf.setIfInBounds 0 (some ⟨b, ts, s.offset⟩), n := 1 }) ∧
    (¬ plausible s.member b → exec (.candDiscard b ts) s = .next s)

/-- R124: while `Framing` the first byte of a frame is stored unchecked. -/
def Obligations.FirstFrameByteIsStoredUnchecked : Prop :=
  ∀ (s : State) (b : Byte) (ts : Timestamp), s.status = .running → s.mode = .framing → s.n = 0 → b ≠ 0xFF →
    exec (.frameFirst b ts) s = .next { s with buf := s.buf.setIfInBounds 0 (some ⟨b, ts, s.offset⟩), n := 1 }

/-- R106: the matcher leaves the mode and hands the byte to the driver, which stores or discards it (R122 to R124).
`verdict` is the model's own field (notes/assumptions/2.md). -/
def Obligations.NoSyncHandsTheByteToTheDriver : Prop :=
  ∀ (s : State) (b : Byte) (ts : Timestamp), s.status = .running → s.n = 0 → b ≠ 0xFF →
    (s.mode = .searching → plausible s.member b →
      exec (.noSync b ts) s =
        .next { s with buf := s.buf.setIfInBounds 0 (some ⟨b, ts, s.offset⟩), n := 1, verdict := some true }) ∧
    (s.mode = .searching → ¬ plausible s.member b → exec (.noSync b ts) s = .next { s with verdict := some false }) ∧
    (s.mode = .framing →
      exec (.noSync b ts) s = .next { s with buf := s.buf.setIfInBounds 0 (some ⟨b, ts, s.offset⟩), n := 1 })

/-- R125: any byte of a partly collected frame is stored, whatever its value; the sixteenth completes the frame in the
same event (R126). -/
def Obligations.FrameByteIsStoredWhateverItsValue : Prop :=
  ∀ (s : State) (b : Byte) (ts : Timestamp), s.status = .running → (s.mode = .searching ∨ s.mode = .framing) →
    (∀ k : Fin 17, 1 ≤ s.n.val → s.n.val < 15 → k.val = s.n.val + 1 →
      exec (.frameByte b ts) s =
        .next { s with buf := s.buf.setIfInBounds s.n.val (some ⟨b, ts, s.offset⟩), n := k }) ∧
    (s.n.val = 15 →
      exec (.frameByte b ts) s =
        exec .frameComplete { s with buf := s.buf.setIfInBounds 15 (some ⟨b, ts, s.offset⟩), n := 16 })

/-- R107, R125, R135: bytes that arrive while a frame is partly collected become the next entries of the buffer, in
order, each with its own timestamp and offset, whatever their values; nothing else of the block changes. -/
def Obligations.ArrivingBytesBecomeTheNextEntries : Prop :=
  ∀ (bs : List (Byte × Timestamp)) (s : State) (rest : List HostAction),
    s.status = .running → (s.mode = .searching ∨ s.mode = .framing) →
    1 ≤ s.n.val → s.n.val + bs.length ≤ 15 → s.offset.toNat + bs.length < 2 ^ 64 →
    s.input = bs.map (fun p => .event (.byte p.1 p.2)) ++ rest →
    ∃ t, core.run bs.length s = .next t ∧ t.n.val = s.n.val + bs.length ∧ t.input = rest ∧
      t.offset = s.offset + BitVec.ofNat 64 bs.length ∧
      (∀ j, j < s.n.val → t.memRead j = s.memRead j) ∧
      (∀ (k : Nat) (h : k < bs.length), t.memRead (s.n.val + k) =
        some ⟨bs[k].1, bs[k].2, s.offset + BitVec.ofNat 64 (k + 1)⟩) ∧
      { t with buf := s.buf, n := s.n, offset := s.offset, input := s.input } = s

/-! ### The validator -/

/-- R140: the byte check's answer; nothing but the answer's own field changes (notes/assumptions/2.md). -/
def Obligations.ByteCheckAsksControlBitAndMembership : Prop :=
  ∀ (s : State) (b : Byte), s.status = .running →
    (plausible s.member b → exec (.byteCheck b) s = .next { s with verdict := some true }) ∧
    (¬ plausible s.member b → exec (.byteCheck b) s = .next { s with verdict := some false })

/-- R141: the frame check's answer on every full buffer, under the latched table and policy; nothing but the answer's
own field changes (notes/assumptions/2.md). -/
def Obligations.FrameCheckRejectsExactlyTheViolations : Prop :=
  ∀ (s : State) (f : Fin 16 → Entry), s.status = .running → s.holdsFrame f →
    (framePasses s f → exec .frameCheck s = .next { s with verdict := some true }) ∧
    (¬ framePasses s f → exec .frameCheck s = .next { s with verdict := some false })

/-- R142: what the frame check answers depends only on the 8 low bytes, on `MEMBER[1..127]` and on `INTERMIX`. -/
def Obligations.FrameCheckReadsOnlyLowBytes : Prop :=
  ∀ (s s' : State) (f f' : Fin 16 → Entry) (t t' : State), s.holdsFrame f → s'.holdsFrame f' →
    (∀ i : Fin 8, (f ⟨2 * i.val, by omega⟩).byte = (f' ⟨2 * i.val, by omega⟩).byte) →
    (∀ k, 1 ≤ k → k ≤ 127 → s.member.getLsbD k = s'.member.getLsbD k) → s.intermix = s'.intermix →
    exec .frameCheck s = .next t → exec .frameCheck s' = .next t' → t.verdict = t'.verdict

/-! ### The completed frame -/

/-- R127: the diagnostic, then the frame's packets, then the counts, `Framing`, `consec = 1` and an empty buffer; if the
demultiplexer ends the run, nothing after it. -/
def Obligations.ValidFrameWhileSearchingFrames : Prop :=
  ∀ (s : State) (f : Fin 16 → Entry), s.status = .running → s.mode = .searching → s.holdsFrame f → framePasses s f →
    (∀ u, exec .demux { s with out := s.out ++ [.diag (.validFrame (f 0).off)] } = .next u →
      (u.status = .running → exec .searchFrameValid s =
        .next { u with totalValid := saturated u.totalValid, mode := .framing, consec := 1, n := 0 }) ∧
      (u.status ≠ .running → exec .searchFrameValid s = .next u)) ∧
    (channelKnown s f → s.sinkAccepts 15 → ∃ t, exec .searchFrameValid s = .next t ∧ t.status = .running ∧
      t.mode = .framing ∧ t.n = 0 ∧ t.consec = 1 ∧ t.totalValid = saturated s.totalValid)

/-- R129: the frame's packets, then the counts and an empty buffer, still `Framing`; no diagnostic of its own; if the
demultiplexer ends the run, nothing after it. -/
def Obligations.ValidFrameWhileFramingStaysFramed : Prop :=
  ∀ (s : State) (f : Fin 16 → Entry), s.status = .running → s.mode = .framing → s.holdsFrame f → framePasses s f →
    (∀ u, exec .demux s = .next u →
      (u.status = .running → exec .frameValid s =
        .next { u with totalValid := saturated u.totalValid, consec := saturated u.consec, n := 0 }) ∧
      (u.status ≠ .running → exec .frameValid s = .next u)) ∧
    (channelKnown s f → s.sinkAccepts 15 → ∃ t, exec .frameValid s = .next t ∧ t.status = .running ∧
      t.mode = .framing ∧ t.n = 0 ∧ t.consec = saturated s.consec ∧ t.totalValid = saturated s.totalValid)

/-- R128: the first candidate index that passes the byte check is moved to the front with all that follows it (R54); with
no such index the buffer is emptied. Only the buffer and `total_invalid` change. -/
def Obligations.FailedFrameWhileSearchingIsRescanned : Prop :=
  ∀ (s : State) (f : Fin 16 → Entry), s.status = .running → s.mode = .searching → s.holdsFrame f →
    ¬ framePasses s f →
    (∀ j : Fin 16, 1 ≤ j.val → plausible s.member (f j).byte →
      (∀ k : Fin 16, 1 ≤ k.val → k.val < j.val → ¬ plausible s.member (f k).byte) →
      ∃ t, exec .searchFrameInvalid s = .next t ∧ t.n.val = 16 - j.val ∧
        (∀ k : Fin 16, j.val ≤ k.val → t.memRead (k.val - j.val) = some (f k)) ∧
        { t with buf := s.buf, n := s.n } = { s with totalInvalid := saturated s.totalInvalid }) ∧
    ((∀ k : Fin 16, 1 ≤ k.val → ¬ plausible s.member (f k).byte) →
      exec .searchFrameInvalid s = .next { s with totalInvalid := saturated s.totalInvalid, n := 0 })

/-- R130: one bad frame after a good one is reported and tolerated. -/
def Obligations.BadFrameAfterGoodIsTolerated : Prop :=
  ∀ (s : State) (f : Fin 16 → Entry), s.status = .running → s.mode = .framing → s.holdsFrame f →
    ¬ framePasses s f → s.consec ≠ 0 →
    exec .frameInvalidTolerated s =
      .next { s with
        totalInvalid := saturated s.totalInvalid
        out := s.out ++ [.diag (.invalidFrame s.consec (f 0).off)]
        consec := 0
        n := 0 }

/-- R131: a bad frame with `consec = 0` is reported and search is resumed. -/
def Obligations.SecondBadFrameResumesSearch : Prop :=
  ∀ (s : State) (f : Fin 16 → Entry), s.status = .running → s.mode = .framing → s.holdsFrame f →
    ¬ framePasses s f → s.consec = 0 →
    exec .frameInvalidResume s =
      .next { s with
        totalInvalid := saturated s.totalInvalid
        out := s.out ++ [.diag (.resumeSearch (f 0).off)]
        mode := .searching
        n := 0 }

/-- R126 to R131: a completed frame is dealt with in the same event: under conditions on the state alone, the event ends
`RUNNING` with fewer than 16 entries held, and the frame counted once, as valid or as invalid. -/
def Obligations.CompletedFrameIsDealtWithAtOnce : Prop :=
  ∀ (s : State) (f : Fin 16 → Entry), s.status = .running → (s.mode = .searching ∨ s.mode = .framing) →
    s.holdsFrame f → channelKnown s f → s.sinkAccepts 15 →
    ∃ t, exec .frameComplete s = .next t ∧ t.status = .running ∧ t.n.val ≤ 15 ∧
      (framePasses s f → t.totalValid = saturated s.totalValid ∧ t.totalInvalid = s.totalInvalid ∧
        t.mode = .framing ∧ t.n = 0) ∧
      (¬ framePasses s f → t.totalInvalid = saturated s.totalInvalid ∧ t.totalValid = s.totalValid ∧
        t.curId = s.curId ∧ t.delivered = s.delivered ∧ t.answers = s.answers)

/-! ### The demultiplexer -/

/-- R73: the auxiliary vector is the top 7 bits of the frame's last byte, bit `i` for half-word `i`; bit 0 has no
effect (R75). `auxVec` is the model's own field (notes/assumptions/2.md). -/
def Obligations.AuxByteGivesOneBitPerHalfWord : Prop :=
  ∀ (s : State) (b : Byte), s.status = .running →
    ∃ a : AuxVector, exec (.aux b) s = .next { s with auxVec := a } ∧
      ∀ i : Fin 7, a.getLsbD i.val = b.getLsbD (i.val + 1)

/-- R151: the packet goes out under the new ID, with the high byte's datum, offset and timestamp, and then `cur_id` is
the new ID; if the sink refuses the packet the run ends and `cur_id` is not written (R158, R172). -/
def Obligations.UndelayedIdTagsItsByteWithTheNewId : Prop :=
  ∀ (s : State) (k : Fin 7) (lo hi : Entry), s.status = .running →
    lo.byte.getLsbD 0 = true → s.auxVec.getLsbD k.val = false →
    (acceptsNext s (lo.byte.extractLsb' 1 7) →
      exec (.hwIdImm k lo hi) s =
        .next { sentOk s (lo.byte.extractLsb' 1 7) hi.byte hi with curId := some (lo.byte.extractLsb' 1 7) }) ∧
    (∀ err, lo.byte.extractLsb' 1 7 ≠ 0 → s.answers.head? = some (.err err) →
      exec (.hwIdImm k lo hi) s = .next (sentRefused s (lo.byte.extractLsb' 1 7) hi.byte hi err))

/-- R152: the packet goes out under the old ID, and then `cur_id` is the new ID; if the sink refuses the packet the run
ends and `cur_id` is not written (R158, R172). -/
def Obligations.DelayedIdTagsItsByteWithTheOldId : Prop :=
  ∀ (s : State) (k : Fin 7) (lo hi : Entry) (c : ChanId), s.status = .running →
    lo.byte.getLsbD 0 = true → s.auxVec.getLsbD k.val = true → s.curId = some c →
    (acceptsNext s c →
      exec (.hwIdDelay k lo hi) s =
        .next { sentOk s c hi.byte hi with curId := some (lo.byte.extractLsb' 1 7) }) ∧
    (∀ err, c ≠ 0 → s.answers.head? = some (.err err) →
      exec (.hwIdDelay k lo hi) s = .next (sentRefused s c hi.byte hi err))

/-- R153: with no Current Channel ID the delayed byte is dropped, counted and reported, and `cur_id` is still the new
ID. -/
def Obligations.OrphanedByteIsDroppedAndCounted : Prop :=
  ∀ (s : State) (k : Fin 7) (lo hi : Entry), s.status = .running →
    lo.byte.getLsbD 0 = true → s.auxVec.getLsbD k.val = true → s.curId = none →
    exec (.hwIdOrphan k lo hi) s =
      .next { s with
        orphanCount := saturated s.orphanCount
        out := s.out ++ [.diag (.orphanedByte hi.off)]
        curId := some (lo.byte.extractLsb' 1 7) }

/-- R154: a data half-word gives two packets under the Current Channel ID, the first with the aux bit in bit 0; the run
ends at the packet the sink refuses, or, with `cur_id = None`, before any packet (R172, R173). -/
def Obligations.DataHalfWordGivesTwoPacketsOrFaults : Prop :=
  ∀ (s : State) (k : Fin 7) (lo hi : Entry), s.status = .running → lo.byte.getLsbD 0 = false →
    (s.curId = none → exec (.hwData k lo hi) s =
      .next { s with
        status := .faultNoCurrentId
        term := some (.noCurrentId k.castSucc lo.off)
        out := s.out ++ [.ended .faultNoCurrentId] }) ∧
    (∀ c, s.curId = some c →
      ∃ d : Byte, d.toNat = 2 * (lo.byte.toNat / 2) + (s.auxVec.getLsbD k.val).toNat ∧
        (c = 0 ∨ s.sinkAccepts 2 →
          exec (.hwData k lo hi) s = .next (sentOk (sentOk s c d lo) c hi.byte hi)) ∧
        (∀ err, c ≠ 0 → s.answers.head? = some (.err err) →
          exec (.hwData k lo hi) s = .next (sentRefused s c d lo err)) ∧
        (∀ err rest, c ≠ 0 → s.answers = .ok :: .err err :: rest →
          exec (.hwData k lo hi) s = .next (sentRefused (sentOk s c d lo) c hi.byte hi err)))

/-- R155: the last half-word's ID is announced for the next frame; no packet, and the aux byte `x` has no effect. -/
def Obligations.LastIdIsAnnouncedWithoutAPacket : Prop :=
  ∀ (s : State) (lo : Entry) (x : Byte), s.status = .running → lo.byte.getLsbD 0 = true →
    exec (.hwLastId lo x) s = .next { s with curId := some (lo.byte.extractLsb' 1 7) }

/-- R156: the last half-word's data byte goes out as it stands, under the Current Channel ID; the run ends if the sink
refuses it, or, with `cur_id = None`, before it (R172, R173). -/
def Obligations.LastDataGivesOnePacketOrFaults : Prop :=
  ∀ (s : State) (lo : Entry) (x : Byte), s.status = .running → lo.byte.getLsbD 0 = false →
    (s.curId = none → exec (.hwLastData lo x) s =
      .next { s with
        status := .faultNoCurrentId
        term := some (.noCurrentId 7 lo.off)
        out := s.out ++ [.ended .faultNoCurrentId] }) ∧
    (∀ c, s.curId = some c → acceptsNext s c → exec (.hwLastData lo x) s = .next (sentOk s c lo.byte lo)) ∧
    (∀ c err, s.curId = some c → c ≠ 0 → s.answers.head? = some (.err err) →
      exec (.hwLastData lo x) s = .next (sentRefused s c lo.byte lo err))

/-- R157: a NULL packet is dropped without a trace, any other is offered once and its answer awaited; `SINK_ERR` aborts
the run, with the error in `term` and the packet not delivered (R172, R178). An offer without an answer leaves the block
stuck (R68, I10); that this is the fault `awaitingSinkAnswer` is the model's choice (DEDUCED, notes/assumptions/6.md). -/
def Obligations.SendFiltersNullAndOffersTheRest : Prop :=
  ∀ (s : State) (id : ChanId) (datum : Byte) (e : Entry), s.status = .running →
    (acceptsNext s id → exec (.send id datum e.off e.ts) s = .next (sentOk s id datum e)) ∧
    (∀ err, id ≠ 0 → s.answers.head? = some (.err err) →
      exec (.send id datum e.off e.ts) s = .next (sentRefused s id datum e err)) ∧
    (id ≠ 0 → s.answers = [] → exec (.send id datum e.off e.ts) s = .fault .awaitingSinkAnswer) ∧
    (∀ err, exec (.sinkErr err) s =
      .next { s with status := .abortedSink, term := some (.err err), out := s.out ++ [.ended .abortedSink] })

/-- R150, R158, R159: under conditions on the state alone a frame is demultiplexed to the end: `cur_id` is `Some`, at
most 15 packets were delivered, and only the demultiplexer's registers and the output ports have changed. -/
def Obligations.DemuxRunsToTheEndOfTheFrame : Prop :=
  ∀ (s : State) (f : Fin 16 → Entry), s.status = .running → s.holdsFrame f → channelKnown s f → s.sinkAccepts 15 →
    ∃ t ps, exec .demux s = .next t ∧ t.status = .running ∧ t.curId.isSome = true ∧
      t.delivered = s.delivered ++ ps ∧ ps.length ≤ 15 ∧
      { t with curId := s.curId, orphanCount := s.orphanCount, answers := s.answers, out := s.out,
               auxVec := s.auxVec } = s

/-- R160: the packets of one frame are delivered in strictly increasing offset order, each with an offset of the
frame. -/
def Obligations.PacketsOfAFrameRiseInOffset : Prop :=
  ∀ (s t : State) (f : Fin 16 → Entry), s.holdsFrame f →
    (∀ j k : Fin 16, j.val < k.val → (f j).off < (f k).off) → exec .demux s = .next t →
    ∃ ps, t.delivered = s.delivered ++ ps ∧ (ps.map (·.off)).Pairwise (· < ·) ∧ ∀ p ∈ ps, ∃ j, p.off = (f j).off

/-- R161: a frame built by the `frame` statement from forms other than `idd`, starting with an `id` form or with a
Current Channel ID in force, is demultiplexed to exactly the non-NULL `(id, datum)` pairs written into it, in order. -/
def Obligations.BuiltFramesDemultiplexToWhatWasWritten : Prop :=
  ∀ (s : State) (f : Fin 16 → Entry) (q : FrameStmt) (c : ChanId),
    s.status = .running → s.holdsFrame f → q.valid = true → (∀ h ∈ q.halves, ∀ id d, h ≠ .idd id d) →
    (s.curId = some c ∨ ∃ id d hs, q.halves = .id id d :: hs) →
    (List.ofFn fun j => (f j).byte) = q.bytes → s.sinkAccepts 15 →
    ∃ t ps, exec .demux s = .next t ∧ t.status = .running ∧ t.delivered = s.delivered ++ ps ∧
      ps.map (fun p => (p.id, p.datum)) =
        ((writtenPairs q.last q.halves c).filter (fun p => p.1 ≠ 0)).map (fun p => (p.1.zeroExtend 8, p.2))

/-! ### Events -/

/-- R31, R62, R65: a `BYTE` event counts the byte, leaves the latched configuration, and only adds to the outputs; `END`
and `SRC_ERR` do not count. -/
def Obligations.EveryByteIsCountedOnce : Prop :=
  ∀ (s t : State),
    (∀ b ts, exec (.byte b ts) s = .next t →
      t.offset = s.offset + 1 ∧ t.member = s.member ∧ t.intermix = s.intermix ∧ t.input = s.input ∧
      ∃ l, t.out = s.out ++ l) ∧
    (exec .endStream s = .next t → t.offset = s.offset) ∧
    (∀ err, exec (.srcErr err) s = .next t → t.offset = s.offset)

/-- R120, R121: from a state that meets the invariant, with a Current Channel ID and a sink that accepts, a `BYTE` event
is processed completely and the block goes on `RUNNING`, ready for the next. -/
def Obligations.ByteEventIsProcessedCompletely : Prop :=
  ∀ (s : State) (b : Byte) (ts : Timestamp), s.Inv → s.status = .running → s.offset.toNat < 2 ^ 64 - 1 →
    s.curId.isSome = true → s.sinkAccepts 15 →
    ∃ t, exec (.byte b ts) s = .next t ∧ t.status = .running ∧ t.offset = s.offset + 1 ∧ t.n.val ≤ 15

/-- R193, R159, R39, R157: a `BYTE` event delivers packets only where it completes a frame, at most 15, and never one
under the NULL ID or an ID above 127. -/
def Obligations.PacketsComeOnlyWithTheSixteenthByte : Prop :=
  ∀ (s t : State) (b : Byte) (ts : Timestamp), exec (.byte b ts) s = .next t →
    ∃ ps, t.delivered = s.delivered ++ ps ∧ ps.length ≤ 15 ∧ (s.n.val ≠ 15 → ps = []) ∧
      ∀ p ∈ ps, 1 ≤ p.id.toNat ∧ p.id.toNat ≤ 127

/-- R26, R158: only a completed frame changes `cur_id`, and once set it is only replaced. -/
def Obligations.CurrentIdIsOnlyEverReplaced : Prop :=
  ∀ (s t : State) (b : Byte) (ts : Timestamp), exec (.byte b ts) s = .next t →
    (s.n.val ≠ 15 → t.curId = s.curId) ∧ (s.curId.isSome = true → t.curId.isSome = true)

/-- R27: the four writes of `consec`, and no other. -/
def Obligations.ConsecutiveCountHasFourWrites : Prop :=
  ∀ (s t : State) (b : Byte) (ts : Timestamp), exec (.byte b ts) s = .next t →
    t.consec = s.consec ∨
    (s.mode = .searching ∧ t.mode = .framing ∧ t.consec = 1) ∨
    (s.mode = .framing ∧ t.mode = .framing ∧ t.consec = saturated s.consec) ∨
    (s.mode = .framing ∧ t.mode = .framing ∧ s.consec ≠ 0 ∧ t.consec = 0)

/-- R172, R173, R177, R178: where a `BYTE` event ends the run, it was the demultiplexer that stopped it; the rest of the
frame's rule is not done: mode, counts and buffer stand as they stood. -/
def Obligations.StoppedEventFreezesTheBlock : Prop :=
  ∀ (s t : State) (b : Byte) (ts : Timestamp), exec (.byte b ts) s = .next t → t.status ≠ .running →
    (t.status = .abortedSink ∨ t.status = .faultNoCurrentId) ∧ t.n.val = 16 ∧ t.mode = s.mode ∧
      t.consec = s.consec ∧ t.totalValid = s.totalValid ∧ t.totalInvalid = s.totalInvalid

/-- R154, R173, R197: while `Framing` with no Current Channel ID, a frame that passes the check and starts with a data
half-word ends the run with `FAULT_NO_CURRENT_ID` at half-word 0, and no packet. -/
def Obligations.FirstFrameAfterSyncMustStartWithAnId : Prop :=
  ∀ (s : State) (f : Fin 16 → Entry), s.status = .running → s.mode = .framing → s.holdsFrame f → framePasses s f →
    s.curId = none → (f 0).byte.getLsbD 0 = false →
    ∃ t, exec .frameComplete s = .next t ∧ t.status = .faultNoCurrentId ∧ t.term = some (.noCurrentId 0 (f 0).off) ∧
      t.delivered = s.delivered ∧ t.n.val = 16

/-- R136: on the `Searching` path `FAULT_NO_CURRENT_ID` cannot arise. -/
def Obligations.SearchingNeverFaultsForLackOfAnId : Prop :=
  ∀ (s t : State) (b : Byte) (ts : Timestamp), s.Inv → s.mode = .searching → exec (.byte b ts) s = .next t →
    t.status ≠ .faultNoCurrentId

/-- R132: the summary, `DONE` and its record; a partial frame or sync match stays as it is, undecoded. -/
def Obligations.EndReportsTheValidFrames : Prop :=
  ∀ s : State, s.status = .running →
    exec .endStream s =
      .next { s with
        status := .done
        term := some (.total s.totalValid)
        out := s.out ++ [.diag (.summary s.totalValid), .ended .done] }

/-- R133 and R171: the run is aborted with the error value; no summary. -/
def Obligations.SourceFailureAbortsTheRun : Prop :=
  ∀ (s : State) (err : ErrValue), s.status = .running →
    exec (.srcErr err) s =
      .next { s with status := .abortedSrc, term := some (.err err), out := s.out ++ [.ended .abortedSrc] }

/-- R11: a byte beyond `2^OFFSET_BITS - 1` is refused. -/
def Obligations.TooLongARunIsRefused : Prop :=
  ∀ (s : State) (b : Byte) (ts : Timestamp), s.status = .running → s.offset.toNat = 2 ^ 64 - 1 →
    exec (.byte b ts) s = .refused .runTooLong

/-! ### The end of a run, reset, and the whole machine -/

/-- R134 and R68: in a terminal status no event is taken, whatever waits at the port; and with an unanswered pull the
block is stuck. -/
def Obligations.TerminalStatusTakesNoEvent : Prop :=
  ∀ s : State,
    (s.status ≠ .running → s.input = [] → step s = .refused .runEnded) ∧
    (∀ e rest, s.status ≠ .running → s.input = .event e :: rest → step s = .refused .runEnded) ∧
    (s.status = .running → s.input = [] → step s = .fault .awaitingEvent)

/-- R190: reset latches the configuration and sets every other element of R45's list to its reset value, from any
status, in the middle of anything; the new run has put nothing out. What the model's own fields and the host's lists hold
is the model's choice (notes/assumptions/2.md, 8.md) and is not stated. -/
def Obligations.ResetStartsANewRunFromAnyState : Prop :=
  ∀ (s : State) (member : MemberTable) (intermix : Bool) (rest : List HostAction),
    s.input = .reset member intermix :: rest →
    ∃ t, step s = .next t ∧ t.member = member ∧ t.intermix = intermix ∧ t.mode = .searching ∧ t.n = 0 ∧
      (∀ j : Fin 16, t.buf[j.val] = none) ∧ t.curId = none ∧ t.consec = 0 ∧ t.totalValid = 0 ∧ t.totalInvalid = 0 ∧
      t.orphanCount = 0 ∧ t.offset = 0 ∧ t.status = .running ∧ t.term = none ∧ t.delivered = [] ∧ t.diagnostics = []

/-- R45: the reset values, and R35's reference policy; the empty membership table is the model's choice
(notes/assumptions/1.md). -/
def Obligations.ResetStateHoldsTheResetValues : Prop :=
  State.reset.mode = .searching ∧ (∀ j : Fin 16, State.reset.buf[j.val] = none) ∧ State.reset.n = 0 ∧
  State.reset.curId = none ∧ State.reset.consec = 0 ∧ State.reset.totalValid = 0 ∧ State.reset.totalInvalid = 0 ∧
  State.reset.orphanCount = 0 ∧ State.reset.offset = 0 ∧ State.reset.status = .running ∧ State.reset.term = none ∧
  State.reset.intermix = true

/-- The codes of the observation outputs (R21, R32, R42). -/
def Obligations.ObservationOutputsCarryTheCodes : Prop :=
  Mode.searching.code = 0 ∧ (Mode.searchingSyncing .one).code = 1 ∧ (Mode.searchingSyncing .two).code = 2 ∧
  (Mode.searchingSyncing .three).code = 3 ∧ Mode.framing.code = 4 ∧ (Mode.framingSyncing .one).code = 5 ∧
  (Mode.framingSyncing .two).code = 6 ∧ (Mode.framingSyncing .three).code = 7 ∧
  Status.running.code = 0 ∧ Status.done.code = 1 ∧ Status.abortedSrc.code = 2 ∧ Status.abortedSink.code = 3 ∧
  Status.faultNoCurrentId.code = 4 ∧ Status.faultIllegalTransition.code = 5 ∧
  ∀ s : State, s.observe.mode = s.mode.code ∧ s.observe.status = s.status.code ∧ s.observe.n = s.n.val ∧
    s.observe.curId = s.curId ∧ s.observe.offset = s.offset ∧ s.observe.term = s.term ∧ s.observe.consec = s.consec ∧
    s.observe.totalValid = s.totalValid ∧ s.observe.totalInvalid = s.totalInvalid ∧
    s.observe.orphanCount = s.orphanCount

/-- The state after reset, with any configuration, meets the invariant. -/
def Obligations.ResetMeetsTheInvariant : Prop :=
  State.reset.Inv ∧ ∀ (member : MemberTable) (intermix : Bool), (State.resetWith member intermix).Inv

/-- R44, R52, R63, R33: every step keeps the invariant. -/
def Obligations.EveryStepKeepsTheInvariant : Prop :=
  ∀ s t : State, s.Inv → step s = .next t → t.Inv

/-- R52, I3 and R79, R80, R126: from a state that meets the invariant no step reads an unwritten entry, and none asks an
operation for operands outside its class. -/
def Obligations.NoStepReadsAnUnwrittenEntry : Prop :=
  ∀ s : State, s.Inv → step s ≠ .fault .unwrittenEntry ∧ step s ≠ .refused .outsideClass

/-- R65: reset latches the table and the policy, and as long as the host applies no other reset, no step changes them. -/
def Obligations.ConfigurationIsLatchedForTheRun : Prop :=
  ∀ (s t : State) (rest : List HostAction), step s = .next t →
    (∀ member intermix, s.input = .reset member intermix :: rest → t.member = member ∧ t.intermix = intermix) ∧
    (∀ e, s.input = .event e :: rest → t.member = s.member ∧ t.intermix = s.intermix)

/-- R23 and D2: the block carries timestamps and never computes on them: whatever is done to every timestamp at its
input is done to every timestamp at its output, and nothing else changes. -/
def Obligations.TimestampsAreCarriedAndNeverRead : Prop :=
  ∀ (g : Timestamp → Timestamp) (s : State), step (s.mapTs g) = resultMapTs g (step s)
end

