-- ==== Sys2Proof/Laws/Decode.lean ====
section
/-! SUPPORT. The operand words of the encoding: laying a word out and reading it back, in both directions, and what the
readers of Decode.lean do on bytes laid out by the encoder. -/

namespace Sys2Proof

/-! ### The constants together -/

/-- A frame is its half-words of two bytes each (R71). -/
theorem frameSize_eq : Config.frameSize = 2 * Config.halfWords := rfl

/-- Every half-word but the last has an aux bit (R73, R74). -/
theorem halfWords_eq : Config.halfWords = Config.auxBits + 1 := rfl

/-- The auxiliary byte is the high byte of the last half-word (R71, R74). -/
theorem highIndex_lastHalf : highIndex Config.lastHalf = Config.auxIndex := rfl

theorem lowIndices_eq : lowIndices = [0, 2, 4, 6, 8, 10, 12, 14] := rfl

theorem halfIndices_eq : halfIndices = [0, 1, 2, 3, 4, 5, 6] := rfl

@[simp] theorem lastHalfIndex_eq : lastHalfIndex = 7 := rfl

/-- The bound of a half-word's index, as a number. -/
theorem HalfIndex.lt_seven (i : HalfIndex) : i.val < 7 := i.isLt

/-! ### Words laid out and read back -/

/-- Eight bytes joined, most significant first. -/
theorem join_word64Bytes (v : BitVec 64) :
    v.extractLsb' 56 8 ++ v.extractLsb' 48 8 ++ v.extractLsb' 40 8 ++ v.extractLsb' 32 8 ++
      v.extractLsb' 24 8 ++ v.extractLsb' 16 8 ++ v.extractLsb' 8 8 ++ v.extractLsb' 0 8 = v := by
  apply BitVec.eq_of_getLsbD_eq
  intro i hi
  simp only [BitVec.getLsbD_append, BitVec.getLsbD_extractLsb']
  repeat' split
  all_goals (rw [decide_eq_true (by omega), Bool.true_and]; congr 1; omega)

/-- A word laid out is read back, with the bytes after it left over. -/
@[simp] theorem takeWord64_word64Bytes (v : BitVec 64) (rest : List Byte) :
    takeWord64 (word64Bytes v ++ rest) = some (v, rest) := by
  simp only [word64Bytes, List.cons_append, List.nil_append, takeWord64, join_word64Bytes]

theorem extract_append_low (a : BitVec n) (b : BitVec 8) : (a ++ b).extractLsb' 0 8 = b := by
  apply BitVec.eq_of_getLsbD_eq
  intro i hi
  simp [BitVec.getLsbD_append, hi]

theorem extract_append_high (a : BitVec n) (b : BitVec 8) (k : Nat) :
    (a ++ b).extractLsb' (k + 8) 8 = a.extractLsb' k 8 := by
  apply BitVec.eq_of_getLsbD_eq
  intro i hi
  have h : ¬ (k + 8 + i < 8) := by omega
  simp [BitVec.getLsbD_append, hi, h, show k + 8 + i - 8 = k + i by omega]

theorem extract_self (b : BitVec 8) : b.extractLsb' 0 8 = b := by
  apply BitVec.eq_of_getLsbD_eq
  intro i hi
  simp [hi]

/-- A word read is the word laid out by the bytes that were read. -/
theorem takeWord64_eq_some {w rest : List Byte} {v : BitVec 64} (h : takeWord64 w = some (v, rest)) :
    w = word64Bytes v ++ rest := by
  unfold takeWord64 at h
  split at h
  · next b0 b1 b2 b3 b4 b5 b6 b7 r =>
    simp only [Option.some.injEq, Prod.mk.injEq] at h
    obtain ⟨rfl, rfl⟩ := h
    simp only [word64Bytes, List.cons_append, List.nil_append, List.cons.injEq, and_true]
    refine ⟨?_, ?_, ?_, ?_, ?_, ?_, ?_, ?_⟩
    · rw [extract_append_low]
    · rw [extract_append_high _ _ 0, extract_append_low]
    · rw [extract_append_high _ _ 8, extract_append_high _ _ 0, extract_append_low]
    · rw [extract_append_high _ _ 16, extract_append_high _ _ 8, extract_append_high _ _ 0, extract_append_low]
    · rw [extract_append_high _ _ 24, extract_append_high _ _ 16, extract_append_high _ _ 8,
        extract_append_high _ _ 0, extract_append_low]
    · rw [extract_append_high _ _ 32, extract_append_high _ _ 24, extract_append_high _ _ 16,
        extract_append_high _ _ 8, extract_append_high _ _ 0, extract_append_low]
    · rw [extract_append_high _ _ 40, extract_append_high _ _ 32, extract_append_high _ _ 24,
        extract_append_high _ _ 16, extract_append_high _ _ 8, extract_append_high _ _ 0, extract_append_low]
    · rw [extract_append_high _ _ 48, extract_append_high _ _ 40, extract_append_high _ _ 32,
        extract_append_high _ _ 24, extract_append_high _ _ 16, extract_append_high _ _ 8,
        extract_append_high _ _ 0, extract_self]
  · cases h

@[simp] theorem withWord64_word64Bytes (v : BitVec 64) (rest : List Byte)
    (k : BitVec 64 → List Byte → Except Reject Instr) : withWord64 (word64Bytes v ++ rest) k = k v rest := by
  simp [withWord64]

@[simp] theorem withByte_cons (b : Byte) (rest : List Byte) (k : Byte → List Byte → Except Reject Instr) :
    withByte (b :: rest) k = k b rest := rfl

theorem withWord64_eq_ok {w : List Byte} {k : BitVec 64 → List Byte → Except Reject Instr} {i : Instr}
    (h : withWord64 w k = .ok i) : ∃ v rest, w = word64Bytes v ++ rest ∧ k v rest = .ok i := by
  unfold withWord64 at h
  split at h
  · next v rest hw => exact ⟨v, rest, takeWord64_eq_some hw, h⟩
  · cases h

theorem withByte_eq_ok {w : List Byte} {k : Byte → List Byte → Except Reject Instr} {i : Instr}
    (h : withByte w k = .ok i) : ∃ b rest, w = b :: rest ∧ k b rest = .ok i := by
  unfold withByte at h
  split at h
  · next b rest => exact ⟨b, rest, rfl, h⟩
  · cases h

@[simp] theorem withHalfWord_halfWordBytes (lo hi : Entry) (rest : List Byte)
    (k : Entry → Entry → Except Reject Instr) : withHalfWord (halfWordBytes lo hi ++ rest) k = k lo hi := by
  simp [withHalfWord, halfWordBytes, List.append_assoc]

@[simp] theorem withLastHalfWord_lastHalfWordBytes (lo : Entry) (x : Byte) (rest : List Byte)
    (k : Entry → Byte → Except Reject Instr) : withLastHalfWord (lastHalfWordBytes lo x ++ rest) k = k lo x := by
  simp [withLastHalfWord, lastHalfWordBytes, List.append_assoc]

theorem withHalfWord_eq_ok {w : List Byte} {k : Entry → Entry → Except Reject Instr} {i : Instr}
    (h : withHalfWord w k = .ok i) : ∃ lo hi rest, w = halfWordBytes lo hi ++ rest ∧ k lo hi = .ok i := by
  unfold withHalfWord at h
  obtain ⟨lo, w₁, rfl, h₁⟩ := withByte_eq_ok h
  obtain ⟨hi, w₂, rfl, h₂⟩ := withByte_eq_ok h₁
  obtain ⟨lts, w₃, rfl, h₃⟩ := withWord64_eq_ok h₂
  obtain ⟨loff, w₄, rfl, h₄⟩ := withWord64_eq_ok h₃
  obtain ⟨hts, w₅, rfl, h₅⟩ := withWord64_eq_ok h₄
  obtain ⟨hoff, w₆, rfl, h₆⟩ := withWord64_eq_ok h₅
  exact ⟨⟨lo, lts, loff⟩, ⟨hi, hts, hoff⟩, w₆, by simp [halfWordBytes, List.append_assoc], h₆⟩

theorem withLastHalfWord_eq_ok {w : List Byte} {k : Entry → Byte → Except Reject Instr} {i : Instr}
    (h : withLastHalfWord w k = .ok i) : ∃ lo x rest, w = lastHalfWordBytes lo x ++ rest ∧ k lo x = .ok i := by
  unfold withLastHalfWord at h
  obtain ⟨lo, w₁, rfl, h₁⟩ := withByte_eq_ok h
  obtain ⟨x, w₂, rfl, h₂⟩ := withByte_eq_ok h₁
  obtain ⟨lts, w₃, rfl, h₃⟩ := withWord64_eq_ok h₂
  obtain ⟨loff, w₄, rfl, h₄⟩ := withWord64_eq_ok h₃
  exact ⟨⟨lo, lts, loff⟩, x, w₄, by simp [lastHalfWordBytes, List.append_assoc], h₄⟩

/-! ### Fields as numbers -/

/-- `data_or_id` is the low byte halved (R72). -/
theorem idField_toNat (b : Byte) : (idField b).toNat = b.toNat / 2 := by
  have h : b.toNat < 256 := b.isLt
  simp only [idField, BitVec.extractLsb'_toNat, Nat.shiftRight_eq_div_pow, Config.idBits]
  omega

/-- A channel ID in its 8-bit container is below 128 (R76). -/
theorem zeroExtend_id_lt (id : ChanId) : (id.zeroExtend 8).toNat < 2 ^ Config.idBits := by
  have h : id.toNat < 128 := id.isLt
  simp [Config.idBits]; omega

/-- The container holds the channel ID in its low bits (R76). -/
theorem extract_zeroExtend_id (id : ChanId) : (id.zeroExtend 8).extractLsb' 0 Config.idBits = id := by
  have h : id.toNat < 128 := id.isLt
  apply BitVec.eq_of_toNat_eq
  simp [Config.idBits]; omega

/-- A container below 128 holds nothing else. -/
theorem zeroExtend_extract_id {b : Byte} (h : b.toNat < 2 ^ Config.idBits) :
    (b.extractLsb' 0 Config.idBits).zeroExtend 8 = b := by
  have h' : b.toNat < 128 := h
  apply BitVec.eq_of_toNat_eq
  simp [Config.idBits]; omega

/-- Aux bit `i` is bit `i + 1` of the frame's last byte (R73). -/
theorem auxBit_auxVector (b : Byte) (i : HalfIndex) : auxBit (auxVector b) i = b.getLsbD (i.val + 1) := by
  simp [auxBit, auxVector, Nat.add_comm]

end Sys2Proof
end

