-- ==== Sys2Proof/Laws/State.lean ====
section
/-! SUPPORT. One lemma per field per named update of the state, true by `rfl`, so that no proof unfolds a record update. -/

namespace Sys2Proof.Machine

variable (s : State)

@[simp] theorem State.log_eq_emit (d : Diag) : s.log d = s.emit (.diag d) := rfl
@[simp] theorem State.raiseNoCurrentId_eq (i : Fin Config.halfWords) (off : Offset) :
    s.raiseNoCurrentId i off = s.terminate .faultNoCurrentId (.noCurrentId i off) := rfl

@[simp] theorem State.setMode_mode (m : Mode) : (s.setMode m).mode = m := rfl
@[simp] theorem State.setMode_buf (m : Mode) : (s.setMode m).buf = s.buf := rfl
@[simp] theorem State.setMode_n (m : Mode) : (s.setMode m).n = s.n := rfl
@[simp] theorem State.setMode_curId (m : Mode) : (s.setMode m).curId = s.curId := rfl
@[simp] theorem State.setMode_consec (m : Mode) : (s.setMode m).consec = s.consec := rfl
@[simp] theorem State.setMode_totalValid (m : Mode) : (s.setMode m).totalValid = s.totalValid := rfl
@[simp] theorem State.setMode_totalInvalid (m : Mode) : (s.setMode m).totalInvalid = s.totalInvalid := rfl
@[simp] theorem State.setMode_orphanCount (m : Mode) : (s.setMode m).orphanCount = s.orphanCount := rfl
@[simp] theorem State.setMode_offset (m : Mode) : (s.setMode m).offset = s.offset := rfl
@[simp] theorem State.setMode_status (m : Mode) : (s.setMode m).status = s.status := rfl
@[simp] theorem State.setMode_term (m : Mode) : (s.setMode m).term = s.term := rfl
@[simp] theorem State.setMode_member (m : Mode) : (s.setMode m).member = s.member := rfl
@[simp] theorem State.setMode_intermix (m : Mode) : (s.setMode m).intermix = s.intermix := rfl
@[simp] theorem State.setMode_input (m : Mode) : (s.setMode m).input = s.input := rfl
@[simp] theorem State.setMode_answers (m : Mode) : (s.setMode m).answers = s.answers := rfl
@[simp] theorem State.setMode_out (m : Mode) : (s.setMode m).out = s.out := rfl
@[simp] theorem State.setMode_verdict (m : Mode) : (s.setMode m).verdict = s.verdict := rfl
@[simp] theorem State.setMode_auxVec (m : Mode) : (s.setMode m).auxVec = s.auxVec := rfl
@[simp] theorem State.setMode_memRead (m : Mode) (j : Nat) : (s.setMode m).memRead j = s.memRead j := rfl
@[simp] theorem State.setMode_delivered (m : Mode) : (s.setMode m).delivered = s.delivered := rfl

@[simp] theorem State.setCurId_mode (id : ChanId) : (s.setCurId id).mode = s.mode := rfl
@[simp] theorem State.setCurId_buf (id : ChanId) : (s.setCurId id).buf = s.buf := rfl
@[simp] theorem State.setCurId_n (id : ChanId) : (s.setCurId id).n = s.n := rfl
@[simp] theorem State.setCurId_curId (id : ChanId) : (s.setCurId id).curId = some id := rfl
@[simp] theorem State.setCurId_consec (id : ChanId) : (s.setCurId id).consec = s.consec := rfl
@[simp] theorem State.setCurId_totalValid (id : ChanId) : (s.setCurId id).totalValid = s.totalValid := rfl
@[simp] theorem State.setCurId_totalInvalid (id : ChanId) : (s.setCurId id).totalInvalid = s.totalInvalid := rfl
@[simp] theorem State.setCurId_orphanCount (id : ChanId) : (s.setCurId id).orphanCount = s.orphanCount := rfl
@[simp] theorem State.setCurId_offset (id : ChanId) : (s.setCurId id).offset = s.offset := rfl
@[simp] theorem State.setCurId_status (id : ChanId) : (s.setCurId id).status = s.status := rfl
@[simp] theorem State.setCurId_term (id : ChanId) : (s.setCurId id).term = s.term := rfl
@[simp] theorem State.setCurId_member (id : ChanId) : (s.setCurId id).member = s.member := rfl
@[simp] theorem State.setCurId_intermix (id : ChanId) : (s.setCurId id).intermix = s.intermix := rfl
@[simp] theorem State.setCurId_input (id : ChanId) : (s.setCurId id).input = s.input := rfl
@[simp] theorem State.setCurId_answers (id : ChanId) : (s.setCurId id).answers = s.answers := rfl
@[simp] theorem State.setCurId_out (id : ChanId) : (s.setCurId id).out = s.out := rfl
@[simp] theorem State.setCurId_verdict (id : ChanId) : (s.setCurId id).verdict = s.verdict := rfl
@[simp] theorem State.setCurId_auxVec (id : ChanId) : (s.setCurId id).auxVec = s.auxVec := rfl
@[simp] theorem State.setCurId_memRead (id : ChanId) (j : Nat) : (s.setCurId id).memRead j = s.memRead j := rfl
@[simp] theorem State.setCurId_delivered (id : ChanId) : (s.setCurId id).delivered = s.delivered := rfl

@[simp] theorem State.setConsec_mode (c : Counter) : (s.setConsec c).mode = s.mode := rfl
@[simp] theorem State.setConsec_buf (c : Counter) : (s.setConsec c).buf = s.buf := rfl
@[simp] theorem State.setConsec_n (c : Counter) : (s.setConsec c).n = s.n := rfl
@[simp] theorem State.setConsec_curId (c : Counter) : (s.setConsec c).curId = s.curId := rfl
@[simp] theorem State.setConsec_consec (c : Counter) : (s.setConsec c).consec = c := rfl
@[simp] theorem State.setConsec_totalValid (c : Counter) : (s.setConsec c).totalValid = s.totalValid := rfl
@[simp] theorem State.setConsec_totalInvalid (c : Counter) : (s.setConsec c).totalInvalid = s.totalInvalid := rfl
@[simp] theorem State.setConsec_orphanCount (c : Counter) : (s.setConsec c).orphanCount = s.orphanCount := rfl
@[simp] theorem State.setConsec_offset (c : Counter) : (s.setConsec c).offset = s.offset := rfl
@[simp] theorem State.setConsec_status (c : Counter) : (s.setConsec c).status = s.status := rfl
@[simp] theorem State.setConsec_term (c : Counter) : (s.setConsec c).term = s.term := rfl
@[simp] theorem State.setConsec_member (c : Counter) : (s.setConsec c).member = s.member := rfl
@[simp] theorem State.setConsec_intermix (c : Counter) : (s.setConsec c).intermix = s.intermix := rfl
@[simp] theorem State.setConsec_input (c : Counter) : (s.setConsec c).input = s.input := rfl
@[simp] theorem State.setConsec_answers (c : Counter) : (s.setConsec c).answers = s.answers := rfl
@[simp] theorem State.setConsec_out (c : Counter) : (s.setConsec c).out = s.out := rfl
@[simp] theorem State.setConsec_verdict (c : Counter) : (s.setConsec c).verdict = s.verdict := rfl
@[simp] theorem State.setConsec_auxVec (c : Counter) : (s.setConsec c).auxVec = s.auxVec := rfl
@[simp] theorem State.setConsec_memRead (c : Counter) (j : Nat) : (s.setConsec c).memRead j = s.memRead j := rfl
@[simp] theorem State.setConsec_delivered (c : Counter) : (s.setConsec c).delivered = s.delivered := rfl

@[simp] theorem State.countValid_mode : (s.countValid).mode = s.mode := rfl
@[simp] theorem State.countValid_buf : (s.countValid).buf = s.buf := rfl
@[simp] theorem State.countValid_n : (s.countValid).n = s.n := rfl
@[simp] theorem State.countValid_curId : (s.countValid).curId = s.curId := rfl
@[simp] theorem State.countValid_consec : (s.countValid).consec = s.consec := rfl
@[simp] theorem State.countValid_totalValid : (s.countValid).totalValid = satInc s.totalValid := rfl
@[simp] theorem State.countValid_totalInvalid : (s.countValid).totalInvalid = s.totalInvalid := rfl
@[simp] theorem State.countValid_orphanCount : (s.countValid).orphanCount = s.orphanCount := rfl
@[simp] theorem State.countValid_offset : (s.countValid).offset = s.offset := rfl
@[simp] theorem State.countValid_status : (s.countValid).status = s.status := rfl
@[simp] theorem State.countValid_term : (s.countValid).term = s.term := rfl
@[simp] theorem State.countValid_member : (s.countValid).member = s.member := rfl
@[simp] theorem State.countValid_intermix : (s.countValid).intermix = s.intermix := rfl
@[simp] theorem State.countValid_input : (s.countValid).input = s.input := rfl
@[simp] theorem State.countValid_answers : (s.countValid).answers = s.answers := rfl
@[simp] theorem State.countValid_out : (s.countValid).out = s.out := rfl
@[simp] theorem State.countValid_verdict : (s.countValid).verdict = s.verdict := rfl
@[simp] theorem State.countValid_auxVec : (s.countValid).auxVec = s.auxVec := rfl
@[simp] theorem State.countValid_memRead (j : Nat) : (s.countValid).memRead j = s.memRead j := rfl
@[simp] theorem State.countValid_delivered : (s.countValid).delivered = s.delivered := rfl

@[simp] theorem State.countInvalid_mode : (s.countInvalid).mode = s.mode := rfl
@[simp] theorem State.countInvalid_buf : (s.countInvalid).buf = s.buf := rfl
@[simp] theorem State.countInvalid_n : (s.countInvalid).n = s.n := rfl
@[simp] theorem State.countInvalid_curId : (s.countInvalid).curId = s.curId := rfl
@[simp] theorem State.countInvalid_consec : (s.countInvalid).consec = s.consec := rfl
@[simp] theorem State.countInvalid_totalValid : (s.countInvalid).totalValid = s.totalValid := rfl
@[simp] theorem State.countInvalid_totalInvalid : (s.countInvalid).totalInvalid = satInc s.totalInvalid := rfl
@[simp] theorem State.countInvalid_orphanCount : (s.countInvalid).orphanCount = s.orphanCount := rfl
@[simp] theorem State.countInvalid_offset : (s.countInvalid).offset = s.offset := rfl
@[simp] theorem State.countInvalid_status : (s.countInvalid).status = s.status := rfl
@[simp] theorem State.countInvalid_term : (s.countInvalid).term = s.term := rfl
@[simp] theorem State.countInvalid_member : (s.countInvalid).member = s.member := rfl
@[simp] theorem State.countInvalid_intermix : (s.countInvalid).intermix = s.intermix := rfl
@[simp] theorem State.countInvalid_input : (s.countInvalid).input = s.input := rfl
@[simp] theorem State.countInvalid_answers : (s.countInvalid).answers = s.answers := rfl
@[simp] theorem State.countInvalid_out : (s.countInvalid).out = s.out := rfl
@[simp] theorem State.countInvalid_verdict : (s.countInvalid).verdict = s.verdict := rfl
@[simp] theorem State.countInvalid_auxVec : (s.countInvalid).auxVec = s.auxVec := rfl
@[simp] theorem State.countInvalid_memRead (j : Nat) : (s.countInvalid).memRead j = s.memRead j := rfl
@[simp] theorem State.countInvalid_delivered : (s.countInvalid).delivered = s.delivered := rfl

@[simp] theorem State.countOrphan_mode : (s.countOrphan).mode = s.mode := rfl
@[simp] theorem State.countOrphan_buf : (s.countOrphan).buf = s.buf := rfl
@[simp] theorem State.countOrphan_n : (s.countOrphan).n = s.n := rfl
@[simp] theorem State.countOrphan_curId : (s.countOrphan).curId = s.curId := rfl
@[simp] theorem State.countOrphan_consec : (s.countOrphan).consec = s.consec := rfl
@[simp] theorem State.countOrphan_totalValid : (s.countOrphan).totalValid = s.totalValid := rfl
@[simp] theorem State.countOrphan_totalInvalid : (s.countOrphan).totalInvalid = s.totalInvalid := rfl
@[simp] theorem State.countOrphan_orphanCount : (s.countOrphan).orphanCount = satInc s.orphanCount := rfl
@[simp] theorem State.countOrphan_offset : (s.countOrphan).offset = s.offset := rfl
@[simp] theorem State.countOrphan_status : (s.countOrphan).status = s.status := rfl
@[simp] theorem State.countOrphan_term : (s.countOrphan).term = s.term := rfl
@[simp] theorem State.countOrphan_member : (s.countOrphan).member = s.member := rfl
@[simp] theorem State.countOrphan_intermix : (s.countOrphan).intermix = s.intermix := rfl
@[simp] theorem State.countOrphan_input : (s.countOrphan).input = s.input := rfl
@[simp] theorem State.countOrphan_answers : (s.countOrphan).answers = s.answers := rfl
@[simp] theorem State.countOrphan_out : (s.countOrphan).out = s.out := rfl
@[simp] theorem State.countOrphan_verdict : (s.countOrphan).verdict = s.verdict := rfl
@[simp] theorem State.countOrphan_auxVec : (s.countOrphan).auxVec = s.auxVec := rfl
@[simp] theorem State.countOrphan_memRead (j : Nat) : (s.countOrphan).memRead j = s.memRead j := rfl
@[simp] theorem State.countOrphan_delivered : (s.countOrphan).delivered = s.delivered := rfl

@[simp] theorem State.countByte_mode : (s.countByte).mode = s.mode := by cases s; rfl
@[simp] theorem State.countByte_buf : (s.countByte).buf = s.buf := by cases s; rfl
@[simp] theorem State.countByte_n : (s.countByte).n = s.n := by cases s; rfl
@[simp] theorem State.countByte_curId : (s.countByte).curId = s.curId := by cases s; rfl
@[simp] theorem State.countByte_consec : (s.countByte).consec = s.consec := by cases s; rfl
@[simp] theorem State.countByte_totalValid : (s.countByte).totalValid = s.totalValid := by cases s; rfl
@[simp] theorem State.countByte_totalInvalid : (s.countByte).totalInvalid = s.totalInvalid := by cases s; rfl
@[simp] theorem State.countByte_orphanCount : (s.countByte).orphanCount = s.orphanCount := by cases s; rfl
@[simp] theorem State.countByte_offset : (s.countByte).offset = s.offset + 1 := by cases s; rfl
@[simp] theorem State.countByte_status : (s.countByte).status = s.status := by cases s; rfl
@[simp] theorem State.countByte_term : (s.countByte).term = s.term := by cases s; rfl
@[simp] theorem State.countByte_member : (s.countByte).member = s.member := by cases s; rfl
@[simp] theorem State.countByte_intermix : (s.countByte).intermix = s.intermix := by cases s; rfl
@[simp] theorem State.countByte_input : (s.countByte).input = s.input := by cases s; rfl
@[simp] theorem State.countByte_answers : (s.countByte).answers = s.answers := by cases s; rfl
@[simp] theorem State.countByte_out : (s.countByte).out = s.out := by cases s; rfl
@[simp] theorem State.countByte_verdict : (s.countByte).verdict = s.verdict := by cases s; rfl
@[simp] theorem State.countByte_auxVec : (s.countByte).auxVec = s.auxVec := by cases s; rfl
@[simp] theorem State.countByte_memRead (j : Nat) : (s.countByte).memRead j = s.memRead j := by cases s; rfl
@[simp] theorem State.countByte_delivered : (s.countByte).delivered = s.delivered := by cases s; rfl

@[simp] theorem State.setVerdict_mode (ok : Bool) : (s.setVerdict ok).mode = s.mode := rfl
@[simp] theorem State.setVerdict_buf (ok : Bool) : (s.setVerdict ok).buf = s.buf := rfl
@[simp] theorem State.setVerdict_n (ok : Bool) : (s.setVerdict ok).n = s.n := rfl
@[simp] theorem State.setVerdict_curId (ok : Bool) : (s.setVerdict ok).curId = s.curId := rfl
@[simp] theorem State.setVerdict_consec (ok : Bool) : (s.setVerdict ok).consec = s.consec := rfl
@[simp] theorem State.setVerdict_totalValid (ok : Bool) : (s.setVerdict ok).totalValid = s.totalValid := rfl
@[simp] theorem State.setVerdict_totalInvalid (ok : Bool) : (s.setVerdict ok).totalInvalid = s.totalInvalid := rfl
@[simp] theorem State.setVerdict_orphanCount (ok : Bool) : (s.setVerdict ok).orphanCount = s.orphanCount := rfl
@[simp] theorem State.setVerdict_offset (ok : Bool) : (s.setVerdict ok).offset = s.offset := rfl
@[simp] theorem State.setVerdict_status (ok : Bool) : (s.setVerdict ok).status = s.status := rfl
@[simp] theorem State.setVerdict_term (ok : Bool) : (s.setVerdict ok).term = s.term := rfl
@[simp] theorem State.setVerdict_member (ok : Bool) : (s.setVerdict ok).member = s.member := rfl
@[simp] theorem State.setVerdict_intermix (ok : Bool) : (s.setVerdict ok).intermix = s.intermix := rfl
@[simp] theorem State.setVerdict_input (ok : Bool) : (s.setVerdict ok).input = s.input := rfl
@[simp] theorem State.setVerdict_answers (ok : Bool) : (s.setVerdict ok).answers = s.answers := rfl
@[simp] theorem State.setVerdict_out (ok : Bool) : (s.setVerdict ok).out = s.out := rfl
@[simp] theorem State.setVerdict_verdict (ok : Bool) : (s.setVerdict ok).verdict = some ok := rfl
@[simp] theorem State.setVerdict_auxVec (ok : Bool) : (s.setVerdict ok).auxVec = s.auxVec := rfl
@[simp] theorem State.setVerdict_memRead (ok : Bool) (j : Nat) : (s.setVerdict ok).memRead j = s.memRead j := rfl
@[simp] theorem State.setVerdict_delivered (ok : Bool) : (s.setVerdict ok).delivered = s.delivered := rfl

@[simp] theorem State.setAuxVec_mode (a : AuxVector) : (s.setAuxVec a).mode = s.mode := rfl
@[simp] theorem State.setAuxVec_buf (a : AuxVector) : (s.setAuxVec a).buf = s.buf := rfl
@[simp] theorem State.setAuxVec_n (a : AuxVector) : (s.setAuxVec a).n = s.n := rfl
@[simp] theorem State.setAuxVec_curId (a : AuxVector) : (s.setAuxVec a).curId = s.curId := rfl
@[simp] theorem State.setAuxVec_consec (a : AuxVector) : (s.setAuxVec a).consec = s.consec := rfl
@[simp] theorem State.setAuxVec_totalValid (a : AuxVector) : (s.setAuxVec a).totalValid = s.totalValid := rfl
@[simp] theorem State.setAuxVec_totalInvalid (a : AuxVector) : (s.setAuxVec a).totalInvalid = s.totalInvalid := rfl
@[simp] theorem State.setAuxVec_orphanCount (a : AuxVector) : (s.setAuxVec a).orphanCount = s.orphanCount := rfl
@[simp] theorem State.setAuxVec_offset (a : AuxVector) : (s.setAuxVec a).offset = s.offset := rfl
@[simp] theorem State.setAuxVec_status (a : AuxVector) : (s.setAuxVec a).status = s.status := rfl
@[simp] theorem State.setAuxVec_term (a : AuxVector) : (s.setAuxVec a).term = s.term := rfl
@[simp] theorem State.setAuxVec_member (a : AuxVector) : (s.setAuxVec a).member = s.member := rfl
@[simp] theorem State.setAuxVec_intermix (a : AuxVector) : (s.setAuxVec a).intermix = s.intermix := rfl
@[simp] theorem State.setAuxVec_input (a : AuxVector) : (s.setAuxVec a).input = s.input := rfl
@[simp] theorem State.setAuxVec_answers (a : AuxVector) : (s.setAuxVec a).answers = s.answers := rfl
@[simp] theorem State.setAuxVec_out (a : AuxVector) : (s.setAuxVec a).out = s.out := rfl
@[simp] theorem State.setAuxVec_verdict (a : AuxVector) : (s.setAuxVec a).verdict = s.verdict := rfl
@[simp] theorem State.setAuxVec_auxVec (a : AuxVector) : (s.setAuxVec a).auxVec = a := rfl
@[simp] theorem State.setAuxVec_memRead (a : AuxVector) (j : Nat) : (s.setAuxVec a).memRead j = s.memRead j := rfl
@[simp] theorem State.setAuxVec_delivered (a : AuxVector) : (s.setAuxVec a).delivered = s.delivered := rfl

@[simp] theorem State.append_mode (e : Entry) : (s.append e).mode = s.mode := by cases s; rfl
@[simp] theorem State.append_curId (e : Entry) : (s.append e).curId = s.curId := by cases s; rfl
@[simp] theorem State.append_consec (e : Entry) : (s.append e).consec = s.consec := by cases s; rfl
@[simp] theorem State.append_totalValid (e : Entry) : (s.append e).totalValid = s.totalValid := by cases s; rfl
@[simp] theorem State.append_totalInvalid (e : Entry) : (s.append e).totalInvalid = s.totalInvalid := by cases s; rfl
@[simp] theorem State.append_orphanCount (e : Entry) : (s.append e).orphanCount = s.orphanCount := by cases s; rfl
@[simp] theorem State.append_offset (e : Entry) : (s.append e).offset = s.offset := by cases s; rfl
@[simp] theorem State.append_status (e : Entry) : (s.append e).status = s.status := by cases s; rfl
@[simp] theorem State.append_term (e : Entry) : (s.append e).term = s.term := by cases s; rfl
@[simp] theorem State.append_member (e : Entry) : (s.append e).member = s.member := by cases s; rfl
@[simp] theorem State.append_intermix (e : Entry) : (s.append e).intermix = s.intermix := by cases s; rfl
@[simp] theorem State.append_input (e : Entry) : (s.append e).input = s.input := by cases s; rfl
@[simp] theorem State.append_answers (e : Entry) : (s.append e).answers = s.answers := by cases s; rfl
@[simp] theorem State.append_out (e : Entry) : (s.append e).out = s.out := by cases s; rfl
@[simp] theorem State.append_verdict (e : Entry) : (s.append e).verdict = s.verdict := by cases s; rfl
@[simp] theorem State.append_auxVec (e : Entry) : (s.append e).auxVec = s.auxVec := by cases s; rfl
@[simp] theorem State.append_delivered (e : Entry) : (s.append e).delivered = s.delivered := by cases s; rfl

@[simp] theorem State.compact_mode (j : Nat) : (s.compact j).mode = s.mode := by cases s; rfl
@[simp] theorem State.compact_curId (j : Nat) : (s.compact j).curId = s.curId := by cases s; rfl
@[simp] theorem State.compact_consec (j : Nat) : (s.compact j).consec = s.consec := by cases s; rfl
@[simp] theorem State.compact_totalValid (j : Nat) : (s.compact j).totalValid = s.totalValid := by cases s; rfl
@[simp] theorem State.compact_totalInvalid (j : Nat) : (s.compact j).totalInvalid = s.totalInvalid := by cases s; rfl
@[simp] theorem State.compact_orphanCount (j : Nat) : (s.compact j).orphanCount = s.orphanCount := by cases s; rfl
@[simp] theorem State.compact_offset (j : Nat) : (s.compact j).offset = s.offset := by cases s; rfl
@[simp] theorem State.compact_status (j : Nat) : (s.compact j).status = s.status := by cases s; rfl
@[simp] theorem State.compact_term (j : Nat) : (s.compact j).term = s.term := by cases s; rfl
@[simp] theorem State.compact_member (j : Nat) : (s.compact j).member = s.member := by cases s; rfl
@[simp] theorem State.compact_intermix (j : Nat) : (s.compact j).intermix = s.intermix := by cases s; rfl
@[simp] theorem State.compact_input (j : Nat) : (s.compact j).input = s.input := by cases s; rfl
@[simp] theorem State.compact_answers (j : Nat) : (s.compact j).answers = s.answers := by cases s; rfl
@[simp] theorem State.compact_out (j : Nat) : (s.compact j).out = s.out := by cases s; rfl
@[simp] theorem State.compact_verdict (j : Nat) : (s.compact j).verdict = s.verdict := by cases s; rfl
@[simp] theorem State.compact_auxVec (j : Nat) : (s.compact j).auxVec = s.auxVec := by cases s; rfl
@[simp] theorem State.compact_delivered (j : Nat) : (s.compact j).delivered = s.delivered := by cases s; rfl

@[simp] theorem State.dropFrame_mode : (s.dropFrame).mode = s.mode := rfl
@[simp] theorem State.dropFrame_buf : (s.dropFrame).buf = s.buf := rfl
@[simp] theorem State.dropFrame_n : (s.dropFrame).n = 0 := rfl
@[simp] theorem State.dropFrame_curId : (s.dropFrame).curId = s.curId := rfl
@[simp] theorem State.dropFrame_consec : (s.dropFrame).consec = s.consec := rfl
@[simp] theorem State.dropFrame_totalValid : (s.dropFrame).totalValid = s.totalValid := rfl
@[simp] theorem State.dropFrame_totalInvalid : (s.dropFrame).totalInvalid = s.totalInvalid := rfl
@[simp] theorem State.dropFrame_orphanCount : (s.dropFrame).orphanCount = s.orphanCount := rfl
@[simp] theorem State.dropFrame_offset : (s.dropFrame).offset = s.offset := rfl
@[simp] theorem State.dropFrame_status : (s.dropFrame).status = s.status := rfl
@[simp] theorem State.dropFrame_term : (s.dropFrame).term = s.term := rfl
@[simp] theorem State.dropFrame_member : (s.dropFrame).member = s.member := rfl
@[simp] theorem State.dropFrame_intermix : (s.dropFrame).intermix = s.intermix := rfl
@[simp] theorem State.dropFrame_input : (s.dropFrame).input = s.input := rfl
@[simp] theorem State.dropFrame_answers : (s.dropFrame).answers = s.answers := rfl
@[simp] theorem State.dropFrame_out : (s.dropFrame).out = s.out := rfl
@[simp] theorem State.dropFrame_verdict : (s.dropFrame).verdict = s.verdict := rfl
@[simp] theorem State.dropFrame_auxVec : (s.dropFrame).auxVec = s.auxVec := rfl
@[simp] theorem State.dropFrame_delivered : (s.dropFrame).delivered = s.delivered := rfl

@[simp] theorem State.emit_mode (o : Output) : (s.emit o).mode = s.mode := rfl
@[simp] theorem State.emit_buf (o : Output) : (s.emit o).buf = s.buf := rfl
@[simp] theorem State.emit_n (o : Output) : (s.emit o).n = s.n := rfl
@[simp] theorem State.emit_curId (o : Output) : (s.emit o).curId = s.curId := rfl
@[simp] theorem State.emit_consec (o : Output) : (s.emit o).consec = s.consec := rfl
@[simp] theorem State.emit_totalValid (o : Output) : (s.emit o).totalValid = s.totalValid := rfl
@[simp] theorem State.emit_totalInvalid (o : Output) : (s.emit o).totalInvalid = s.totalInvalid := rfl
@[simp] theorem State.emit_orphanCount (o : Output) : (s.emit o).orphanCount = s.orphanCount := rfl
@[simp] theorem State.emit_offset (o : Output) : (s.emit o).offset = s.offset := rfl
@[simp] theorem State.emit_status (o : Output) : (s.emit o).status = s.status := rfl
@[simp] theorem State.emit_term (o : Output) : (s.emit o).term = s.term := rfl
@[simp] theorem State.emit_member (o : Output) : (s.emit o).member = s.member := rfl
@[simp] theorem State.emit_intermix (o : Output) : (s.emit o).intermix = s.intermix := rfl
@[simp] theorem State.emit_input (o : Output) : (s.emit o).input = s.input := rfl
@[simp] theorem State.emit_answers (o : Output) : (s.emit o).answers = s.answers := rfl
@[simp] theorem State.emit_out (o : Output) : (s.emit o).out = s.out ++ [o] := rfl
@[simp] theorem State.emit_verdict (o : Output) : (s.emit o).verdict = s.verdict := rfl
@[simp] theorem State.emit_auxVec (o : Output) : (s.emit o).auxVec = s.auxVec := rfl
@[simp] theorem State.emit_memRead (o : Output) (j : Nat) : (s.emit o).memRead j = s.memRead j := rfl

@[simp] theorem State.takeAnswer_mode (rest : List SinkAnswer) : (s.takeAnswer rest).mode = s.mode := rfl
@[simp] theorem State.takeAnswer_buf (rest : List SinkAnswer) : (s.takeAnswer rest).buf = s.buf := rfl
@[simp] theorem State.takeAnswer_n (rest : List SinkAnswer) : (s.takeAnswer rest).n = s.n := rfl
@[simp] theorem State.takeAnswer_curId (rest : List SinkAnswer) : (s.takeAnswer rest).curId = s.curId := rfl
@[simp] theorem State.takeAnswer_consec (rest : List SinkAnswer) : (s.takeAnswer rest).consec = s.consec := rfl
@[simp] theorem State.takeAnswer_totalValid (rest : List SinkAnswer) : (s.takeAnswer rest).totalValid = s.totalValid := rfl
@[simp] theorem State.takeAnswer_totalInvalid (rest : List SinkAnswer) : (s.takeAnswer rest).totalInvalid = s.totalInvalid := rfl
@[simp] theorem State.takeAnswer_orphanCount (rest : List SinkAnswer) : (s.takeAnswer rest).orphanCount = s.orphanCount := rfl
@[simp] theorem State.takeAnswer_offset (rest : List SinkAnswer) : (s.takeAnswer rest).offset = s.offset := rfl
@[simp] theorem State.takeAnswer_status (rest : List SinkAnswer) : (s.takeAnswer rest).status = s.status := rfl
@[simp] theorem State.takeAnswer_term (rest : List SinkAnswer) : (s.takeAnswer rest).term = s.term := rfl
@[simp] theorem State.takeAnswer_member (rest : List SinkAnswer) : (s.takeAnswer rest).member = s.member := rfl
@[simp] theorem State.takeAnswer_intermix (rest : List SinkAnswer) : (s.takeAnswer rest).intermix = s.intermix := rfl
@[simp] theorem State.takeAnswer_input (rest : List SinkAnswer) : (s.takeAnswer rest).input = s.input := rfl
@[simp] theorem State.takeAnswer_answers (rest : List SinkAnswer) : (s.takeAnswer rest).answers = rest := rfl
@[simp] theorem State.takeAnswer_out (rest : List SinkAnswer) : (s.takeAnswer rest).out = s.out := rfl
@[simp] theorem State.takeAnswer_verdict (rest : List SinkAnswer) : (s.takeAnswer rest).verdict = s.verdict := rfl
@[simp] theorem State.takeAnswer_auxVec (rest : List SinkAnswer) : (s.takeAnswer rest).auxVec = s.auxVec := rfl
@[simp] theorem State.takeAnswer_memRead (rest : List SinkAnswer) (j : Nat) : (s.takeAnswer rest).memRead j = s.memRead j := rfl
@[simp] theorem State.takeAnswer_delivered (rest : List SinkAnswer) : (s.takeAnswer rest).delivered = s.delivered := rfl

@[simp] theorem State.takeInput_mode (rest : List HostAction) : (s.takeInput rest).mode = s.mode := rfl
@[simp] theorem State.takeInput_buf (rest : List HostAction) : (s.takeInput rest).buf = s.buf := rfl
@[simp] theorem State.takeInput_n (rest : List HostAction) : (s.takeInput rest).n = s.n := rfl
@[simp] theorem State.takeInput_curId (rest : List HostAction) : (s.takeInput rest).curId = s.curId := rfl
@[simp] theorem State.takeInput_consec (rest : List HostAction) : (s.takeInput rest).consec = s.consec := rfl
@[simp] theorem State.takeInput_totalValid (rest : List HostAction) : (s.takeInput rest).totalValid = s.totalValid := rfl
@[simp] theorem State.takeInput_totalInvalid (rest : List HostAction) : (s.takeInput rest).totalInvalid = s.totalInvalid := rfl
@[simp] theorem State.takeInput_orphanCount (rest : List HostAction) : (s.takeInput rest).orphanCount = s.orphanCount := rfl
@[simp] theorem State.takeInput_offset (rest : List HostAction) : (s.takeInput rest).offset = s.offset := rfl
@[simp] theorem State.takeInput_status (rest : List HostAction) : (s.takeInput rest).status = s.status := rfl
@[simp] theorem State.takeInput_term (rest : List HostAction) : (s.takeInput rest).term = s.term := rfl
@[simp] theorem State.takeInput_member (rest : List HostAction) : (s.takeInput rest).member = s.member := rfl
@[simp] theorem State.takeInput_intermix (rest : List HostAction) : (s.takeInput rest).intermix = s.intermix := rfl
@[simp] theorem State.takeInput_input (rest : List HostAction) : (s.takeInput rest).input = rest := rfl
@[simp] theorem State.takeInput_answers (rest : List HostAction) : (s.takeInput rest).answers = s.answers := rfl
@[simp] theorem State.takeInput_out (rest : List HostAction) : (s.takeInput rest).out = s.out := rfl
@[simp] theorem State.takeInput_verdict (rest : List HostAction) : (s.takeInput rest).verdict = s.verdict := rfl
@[simp] theorem State.takeInput_auxVec (rest : List HostAction) : (s.takeInput rest).auxVec = s.auxVec := rfl
@[simp] theorem State.takeInput_memRead (rest : List HostAction) (j : Nat) : (s.takeInput rest).memRead j = s.memRead j := rfl
@[simp] theorem State.takeInput_delivered (rest : List HostAction) : (s.takeInput rest).delivered = s.delivered := rfl

@[simp] theorem State.terminate_mode (st : Status) (t : Term) : (s.terminate st t).mode = s.mode := rfl
@[simp] theorem State.terminate_buf (st : Status) (t : Term) : (s.terminate st t).buf = s.buf := rfl
@[simp] theorem State.terminate_n (st : Status) (t : Term) : (s.terminate st t).n = s.n := rfl
@[simp] theorem State.terminate_curId (st : Status) (t : Term) : (s.terminate st t).curId = s.curId := rfl
@[simp] theorem State.terminate_consec (st : Status) (t : Term) : (s.terminate st t).consec = s.consec := rfl
@[simp] theorem State.terminate_totalValid (st : Status) (t : Term) : (s.terminate st t).totalValid = s.totalValid := rfl
@[simp] theorem State.terminate_totalInvalid (st : Status) (t : Term) : (s.terminate st t).totalInvalid = s.totalInvalid := rfl
@[simp] theorem State.terminate_orphanCount (st : Status) (t : Term) : (s.terminate st t).orphanCount = s.orphanCount := rfl
@[simp] theorem State.terminate_offset (st : Status) (t : Term) : (s.terminate st t).offset = s.offset := rfl
@[simp] theorem State.terminate_status (st : Status) (t : Term) : (s.terminate st t).status = st := rfl
@[simp] theorem State.terminate_term (st : Status) (t : Term) : (s.terminate st t).term = some t := rfl
@[simp] theorem State.terminate_member (st : Status) (t : Term) : (s.terminate st t).member = s.member := rfl
@[simp] theorem State.terminate_intermix (st : Status) (t : Term) : (s.terminate st t).intermix = s.intermix := rfl
@[simp] theorem State.terminate_input (st : Status) (t : Term) : (s.terminate st t).input = s.input := rfl
@[simp] theorem State.terminate_answers (st : Status) (t : Term) : (s.terminate st t).answers = s.answers := rfl
@[simp] theorem State.terminate_out (st : Status) (t : Term) : (s.terminate st t).out = s.out ++ [.ended st] := rfl
@[simp] theorem State.terminate_verdict (st : Status) (t : Term) : (s.terminate st t).verdict = s.verdict := rfl
@[simp] theorem State.terminate_auxVec (st : Status) (t : Term) : (s.terminate st t).auxVec = s.auxVec := rfl
@[simp] theorem State.terminate_memRead (st : Status) (t : Term) (j : Nat) : (s.terminate st t).memRead j = s.memRead j := rfl

@[simp] theorem State.append_n (e : Entry) : (s.append e).n.val = min (s.n.val + 1) 16 := by cases s; rfl
@[simp] theorem State.compact_n (j : Nat) : (s.compact j).n.val = 16 - j := by cases s; rfl
@[simp] theorem State.terminate_delivered (st : Status) (t : Term) : (s.terminate st t).delivered = s.delivered := by
  simp [State.delivered]
@[simp] theorem State.emit_packet_delivered (p : Packet) : (s.emit (.packet p)).delivered = s.delivered ++ [p] := by
  simp [State.delivered]
@[simp] theorem State.emit_refused_delivered (p : Packet) : (s.emit (.refusedPacket p)).delivered = s.delivered := by
  simp [State.delivered]
@[simp] theorem State.emit_diag_delivered (d : Diag) : (s.emit (.diag d)).delivered = s.delivered := by
  simp [State.delivered]

end Sys2Proof.Machine
end

