-- ==== Sys2Proof/Laws/Ops.lean ====
section
/-! SUPPORT. One lemma for each shared operation of Machine/Ops.lean: when it answers `next`, and what the buffer reads
afterwards. -/

namespace Sys2Proof.Machine

/-! ### How the parts of an event follow each other -/

/-- `whileRunning` answers `next` only while running and in class, and then as its continuation. -/
theorem whileRunning_eq_next {s t : State} {c : Bool} {k : Result} :
    whileRunning s c k = .next t ↔ s.status = .running ∧ c = true ∧ k = .next t := by
  unfold whileRunning
  split
  · cases c <;> simp_all
  · simp_all

@[simp] theorem whileRunning_running {s : State} {k : Result} (h : s.status = .running) : whileRunning s true k = k := by
  simp [whileRunning, h]

theorem whileRunning_of {s : State} {c : Bool} {k : Result} (h : s.status = .running) (hc : c = true) : whileRunning s c k = k := by
  subst hc; exact whileRunning_running h

/-- Outside a terminal status `whileRunning` stops with one of its two refusals, or is its continuation. -/
theorem whileRunning_cases (s : State) (c : Bool) (k : Result) :
    (s.status = .running ∧ c = true ∧ whileRunning s c k = k) ∨
    (s.status = .running ∧ c = false ∧ whileRunning s c k = .refused .outsideClass) ∨
    (s.status ≠ .running ∧ whileRunning s c k = .refused .runEnded) := by
  by_cases h : s.status = .running <;> cases c <;> simp [whileRunning, h]

/-- `andThen` answers `next` where the first part did, and either it went on or the first part had ended the run. -/
theorem andThen_eq_next {r : Result} {k : State → Result} {t : State} :
    andThen r k = .next t ↔
      ∃ u, r = .next u ∧ ((u.status = .running ∧ k u = .next t) ∨ (u.status ≠ .running ∧ u = t)) := by
  cases r with
  | next s =>
    by_cases h : s.status = .running <;> simp [andThen, h]
  | fault f => simp [andThen]
  | refused f => simp [andThen]

@[simp] theorem andThen_next_running {s : State} {k : State → Result} (h : s.status = .running) :
    andThen (.next s) k = k s := by simp [andThen, h]

theorem andThen_next_ended {s : State} {k : State → Result} (h : s.status ≠ .running) :
    andThen (.next s) k = .next s := by simp [andThen, h]

@[simp] theorem andThen_fault (f : Fault) (k : State → Result) : andThen (.fault f) k = .fault f := rfl
@[simp] theorem andThen_refused (f : Refusal) (k : State → Result) : andThen (.refused f) k = .refused f := rfl

theorem withEntry_eq_next {s t : State} {j : Nat} {k : Entry → Result} :
    withEntry s j k = .next t ↔ ∃ e, s.memRead j = some e ∧ k e = .next t := by
  unfold withEntry
  cases s.memRead j <;> simp

theorem withEntry_some {s : State} {j : Nat} {k : Entry → Result} {e : Entry} (h : s.memRead j = some e) :
    withEntry s j k = k e := by simp [withEntry, h]

/-! ### The frame buffer -/

/-- A read depends on the buffer and the fill index alone. -/
theorem memRead_congr {s t : State} (hb : t.buf = s.buf) (hn : t.n = s.n) (j : Nat) : t.memRead j = s.memRead j := by
  simp [State.memRead, hb, hn]

/-- Only entries below the fill index hold a value (R24). -/
theorem memRead_lt {s : State} {j : Nat} {e : Entry} (h : s.memRead j = some e) : j < s.n.val := by
  unfold State.memRead at h
  split at h
  · assumption
  · simp at h

theorem memRead_ge {s : State} {j : Nat} (h : s.n.val ≤ j) : s.memRead j = none := by
  simp [State.memRead, Nat.not_lt.mpr h]

@[simp] theorem dropFrame_memRead (s : State) (j : Nat) : s.dropFrame.memRead j = none :=
  memRead_ge (by simp [State.dropFrame])

/-- After an append the entries already there read as before. -/
theorem append_memRead_lt {s : State} {e : Entry} {j : Nat} (hj : j < s.n.val) :
    (s.append e).memRead j = s.memRead j := by
  have hn : s.n.val < 17 := s.n.isLt
  have hj' : j < min (s.n.val + 1) 16 := by omega
  have hne : s.n.val ≠ j := by omega
  simp only [State.memRead, State.append_n, hj', if_true, hj]
  simp [State.append, hne]

/-- The appended entry is read at the old fill index (R51). -/
theorem append_memRead_self {s : State} {e : Entry} (hn : s.n.val < 16) :
    (s.append e).memRead s.n.val = some e := by
  have h : s.n.val < min (s.n.val + 1) 16 := by omega
  simp only [State.memRead, State.append_n, h, if_true]
  simp [State.append, hn, Config.frameSize]

/-- An entry read after an append is the appended one or one that was there. -/
theorem append_memRead_cases {s : State} {e e' : Entry} {j : Nat} (hn : s.n.val < 16)
    (h : (s.append e).memRead j = some e') :
    (j < s.n.val ∧ s.memRead j = some e') ∨ (j = s.n.val ∧ e' = e) := by
  have hlt := memRead_lt h
  rw [State.append_n] at hlt
  rcases Nat.lt_or_ge j s.n.val with hj | hj
  · exact .inl ⟨hj, by rwa [append_memRead_lt hj] at h⟩
  · have : j = s.n.val := by omega
    subst this
    rw [append_memRead_self hn] at h
    exact .inr ⟨rfl, by simpa using h.symm⟩

/-- After a compaction entry `k` is what entry `k + j` was (R54), in a full buffer. -/
theorem compact_memRead {s : State} {j : Nat} (hn : s.n.val = 16) (k : Nat) :
    (s.compact j).memRead k = s.memRead (k + j) := by
  unfold State.memRead
  rw [State.compact_n, hn]
  by_cases h : k + j < 16
  · have hk : k < 16 - j := by omega
    have hk' : k < 16 := by omega
    simp [h, hk, State.compact, hk', Config.frameSize]
  · have hk : ¬ k < 16 - j := by omega
    simp [h, hk]

/-! ### Counters -/

/-- A saturating increment never gives zero, except of nothing (R11, D4). -/
theorem satInc_ne_zero (c : Counter) : satInc c ≠ 0 := by
  unfold satInc
  split
  · next h => subst h; decide
  · next h =>
    intro h0
    apply h
    have : c + 1 = 0 := h0
    have hc : c = -1 := by
      calc c = c + 1 - 1 := by simp
        _ = 0 - 1 := by rw [this]
        _ = -1 := by simp
    rw [hc]; decide

/-- `sat_inc` on the counter's value (R11). -/
theorem satInc_toNat (c : Counter) : (satInc c).toNat = min (c.toNat + 1) (2 ^ 32 - 1) := by
  unfold satInc
  have hlt : c.toNat < 2 ^ 32 := c.isLt
  split
  · next h => subst h; decide
  · next h =>
    have hne : c.toNat ≠ 2 ^ 32 - 1 := by
      intro hc; apply h; apply BitVec.eq_of_toNat_eq; rw [hc]; decide
    have : (c + 1).toNat = (c.toNat + 1) % 2 ^ 32 := by simp [BitVec.toNat_add, Config.cntBits]
    rw [this]; omega

end Sys2Proof.Machine
end

