-- ==== Sys2Proof/Laws/Demux.lean ====
section
/-! SUPPORT. What the demultiplexer's operations can do, said once: `Emits s t ps` is what every one of them does between
`s` and `t`, `ps` being the packets delivered; and when they run on to the end. -/

namespace Sys2Proof.Machine

/-- Everything a part of the demultiplexer can do: it leaves all but its own registers, the run's status and the output
ports; it only adds to the outputs; it never takes the Current Channel ID away; and if it ends the run it does so as R172
or R173 say. -/
structure Emits (s t : State) (ps : List Packet) : Prop where
  kept : { t with curId := s.curId, orphanCount := s.orphanCount, answers := s.answers, out := s.out,
                  auxVec := s.auxVec, status := s.status, term := s.term } = s
  delivered : t.delivered = s.delivered ++ ps
  out : ∃ l, t.out = s.out ++ l
  ids : ∀ p ∈ ps, 1 ≤ p.id.toNat ∧ p.id.toNat ≤ 127
  curId : s.curId.isSome = true → t.curId.isSome = true
  silent : t.curId = none → ps = []
  ended : s.status = .running → (t.status = .running ∧ t.term = s.term) ∨
    ((t.status = .abortedSink ∨ t.status = .faultNoCurrentId) ∧ termMatches t.status t.term)

namespace Emits

variable {s t u : State} {ps qs : List Packet}

theorem mode (h : Emits s t ps) : t.mode = s.mode := by have h := congrArg State.mode h.kept; exact h
theorem buf (h : Emits s t ps) : t.buf = s.buf := by have h := congrArg State.buf h.kept; exact h
theorem fill (h : Emits s t ps) : t.n = s.n := by have h := congrArg State.n h.kept; exact h
theorem consec (h : Emits s t ps) : t.consec = s.consec := by have h := congrArg State.consec h.kept; exact h
theorem totalValid (h : Emits s t ps) : t.totalValid = s.totalValid := by have h := congrArg State.totalValid h.kept; exact h
theorem totalInvalid (h : Emits s t ps) : t.totalInvalid = s.totalInvalid := by have h := congrArg State.totalInvalid h.kept; exact h
theorem offset (h : Emits s t ps) : t.offset = s.offset := by have h := congrArg State.offset h.kept; exact h
theorem member (h : Emits s t ps) : t.member = s.member := by have h := congrArg State.member h.kept; exact h
theorem intermix (h : Emits s t ps) : t.intermix = s.intermix := by have h := congrArg State.intermix h.kept; exact h
theorem input (h : Emits s t ps) : t.input = s.input := by have h := congrArg State.input h.kept; exact h
theorem verdict (h : Emits s t ps) : t.verdict = s.verdict := by have h := congrArg State.verdict h.kept; exact h

theorem memRead (h : Emits s t ps) (j : Nat) : t.memRead j = s.memRead j := memRead_congr h.buf h.fill j

theorem refl (s : State) : Emits s s [] where
  kept := rfl
  delivered := by simp
  out := ⟨[], by simp⟩
  ids := by simp
  curId := id
  silent _ := rfl
  ended h := .inl ⟨h, rfl⟩

/-- Two parts one after the other, the first of which did not end the run. -/
theorem trans (h₁ : Emits s t ps) (hr : t.status = .running) (h₂ : Emits t u qs) : Emits s u (ps ++ qs) where
  kept := by
    have h := h₁.kept
    have h' := h₂.kept
    cases s; cases t; cases u
    simp_all
  delivered := by rw [h₂.delivered, h₁.delivered, List.append_assoc]
  out := by
    obtain ⟨l₁, e₁⟩ := h₁.out
    obtain ⟨l₂, e₂⟩ := h₂.out
    exact ⟨l₁ ++ l₂, by rw [e₂, e₁, List.append_assoc]⟩
  ids p hp := (List.mem_append.mp hp).elim (h₁.ids p) (h₂.ids p)
  curId h := h₂.curId (h₁.curId h)
  silent h := by
    have hq := h₂.silent h
    have ht : t.curId = none := by
      cases hc : t.curId with
      | none => rfl
      | some c => have := h₂.curId (by simp [hc]); simp [h] at this
    rw [hq, h₁.silent ht, List.append_nil]
  ended h := by
    rcases h₁.ended h with ⟨_, h2⟩ | ⟨h2, _⟩
    · rw [← h2]; exact h₂.ended hr
    · rcases h2 with h2 | h2 <;> rw [hr] at h2 <;> exact absurd h2 (by decide)

/-- Writing `cur_id` afterwards. -/
theorem setCurId (h : Emits s t ps) (c : ChanId) : Emits s (t.setCurId c) ps where
  kept := h.kept
  delivered := h.delivered
  out := h.out
  ids := h.ids
  curId _ := rfl
  silent hc := by simp at hc
  ended := h.ended

end Emits

/-! ### The NULL filter and the sink -/

/-- `SEND`, as the three things it can be when it answers (R157, R172). -/
theorem execSend_eq_next {s t : State} {id : ChanId} {d : Byte} {off : Offset} {ts : Timestamp}
    (h : execSend id d off ts s = .next t) :
    s.status = .running ∧
      ((id = 0 ∧ t = s) ∨
       (id ≠ 0 ∧ ∃ rest, s.answers = .ok :: rest ∧
          t = (s.takeAnswer rest).emit (.packet (mkPacket id d off ts))) ∨
       (id ≠ 0 ∧ ∃ e rest, s.answers = .err e :: rest ∧
          t = ((s.takeAnswer rest).emit (.refusedPacket (mkPacket id d off ts))).terminate .abortedSink (.err e))) := by
  obtain ⟨hr, -, h⟩ := whileRunning_eq_next.mp h
  refine ⟨hr, ?_⟩
  have hnull : Config.nullId = (0 : ChanId) := rfl
  by_cases hid : id = 0
  · rw [if_pos (by rw [hid, hnull])] at h
    exact .inl ⟨hid, by simpa using h.symm⟩
  · rw [if_neg (by rw [hnull]; exact hid)] at h
    split at h
    · cases h
    · next rest ha => exact .inr (.inl ⟨hid, rest, ha, by simpa using h.symm⟩)
    · next e rest ha =>
      obtain ⟨-, -, h⟩ := whileRunning_eq_next.mp h
      exact .inr (.inr ⟨hid, e, rest, ha, by simpa using h.symm⟩)

theorem execSend_null {s : State} {d : Byte} {off : Offset} {ts : Timestamp} (hr : s.status = .running) :
    execSend 0 d off ts s = .next s := by
  have hnull : (0 : ChanId) = Config.nullId := rfl
  simp [execSend, hr, hnull]

theorem execSend_ok {s : State} {id : ChanId} {d : Byte} {off : Offset} {ts : Timestamp} {rest : List SinkAnswer}
    (hr : s.status = .running) (hid : id ≠ 0) (ha : s.answers = .ok :: rest) :
    execSend id d off ts s = .next ((s.takeAnswer rest).emit (.packet (mkPacket id d off ts))) := by
  have hnull : ¬ id = Config.nullId := hid
  simp [execSend, hr, hnull, ha]

theorem execSend_err {s : State} {id : ChanId} {d : Byte} {off : Offset} {ts : Timestamp} {e : ErrValue}
    {rest : List SinkAnswer} (hr : s.status = .running) (hid : id ≠ 0) (ha : s.answers = .err e :: rest) :
    execSend id d off ts s =
      .next (((s.takeAnswer rest).emit (.refusedPacket (mkPacket id d off ts))).terminate .abortedSink (.err e)) := by
  have hnull : ¬ id = Config.nullId := hid
  simp [execSend, execSinkErr, hr, hnull, ha]

/-- `SEND` delivers its packet or nothing, at the offset it was given; and nothing while `cur_id` is `None` unless the
run goes on. -/
theorem execSend_emits {s t : State} {id : ChanId} {d : Byte} {off : Offset} {ts : Timestamp}
    (h : execSend id d off ts s = .next t) :
    ∃ ps, (∀ c, Emits s (t.setCurId c) ps) ∧ (s.curId.isSome = true → Emits s t ps) ∧
      (t.status ≠ .running → Emits s t ps) ∧ (ps.map (·.off)).Sublist [off] := by
  have hz : (mkPacket id d off ts).id.toNat = id.toNat := by
    have hlt : id.toNat < 128 := id.isLt
    simp [mkPacket]; omega
  obtain ⟨hr, ⟨-, rfl⟩ | ⟨hid, rest, -, rfl⟩ | ⟨hid, e, rest, -, rfl⟩⟩ := execSend_eq_next h
  · exact ⟨[], fun c => (Emits.refl t).setCurId c, fun _ => Emits.refl t, fun _ => Emits.refl t, by simp⟩
  · have base : ∀ c, Emits s (((s.takeAnswer rest).emit (.packet (mkPacket id d off ts))).setCurId c)
        [mkPacket id d off ts] := fun c =>
      { kept := rfl
        delivered := by simp
        out := ⟨[.packet (mkPacket id d off ts)], by simp⟩
        ids := by
          intro p hp
          have hlt : id.toNat < 128 := id.isLt
          have hpos : id.toNat ≠ 0 := fun h0 => hid (BitVec.eq_of_toNat_eq (by simpa using h0))
          obtain rfl : p = mkPacket id d off ts := by simpa using hp
          omega
        curId := fun _ => rfl
        silent := by simp
        ended := fun hr' => .inl ⟨hr', rfl⟩ }
    refine ⟨_, base, fun hc => ?_, fun hn => absurd hr hn, by simp [mkPacket]⟩
    exact { base 0 with
      kept := rfl
      curId := fun hc => hc
      silent := fun h0 => by have : s.curId = none := h0; simp [this] at hc }
  · have base : Emits s (((s.takeAnswer rest).emit (.refusedPacket (mkPacket id d off ts))).terminate .abortedSink (.err e)) [] :=
      { kept := rfl
        delivered := by simp
        out := ⟨[.refusedPacket (mkPacket id d off ts), .ended .abortedSink], by simp⟩
        ids := by simp
        curId := fun hc => hc
        silent := fun _ => rfl
        ended := fun _ => .inr ⟨.inl rfl, e, rfl⟩ }
    exact ⟨[], fun c => base.setCurId c, fun _ => base, fun _ => base, by simp⟩

/-! ### Half-words -/

/-- What a half-word can do, of each class (R151 to R154). -/
theorem runHalfClass_emits {c : HalfClass} {i : HalfIndex} {lo hi : Entry} {s t : State}
    (h : runHalfClass c i lo hi s = .next t) :
    ∃ ps, Emits s t ps ∧ (ps.map (·.off)).Sublist [lo.off, hi.off] := by
  have one : ∀ {l : List Offset}, l.Sublist [hi.off] → l.Sublist [lo.off, hi.off] := fun h => h.cons _
  cases c with
  | idImm =>
    obtain ⟨-, -, h⟩ := whileRunning_eq_next.mp h
    obtain ⟨u, hu, ⟨-, h⟩ | ⟨hn, rfl⟩⟩ := andThen_eq_next.mp h
    · cases h
      obtain ⟨ps, hc, -, -, ho⟩ := execSend_emits hu
      exact ⟨ps, hc _, one ho⟩
    · obtain ⟨ps, -, -, he, ho⟩ := execSend_emits hu
      exact ⟨ps, he hn, one ho⟩
  | idDelay =>
    obtain ⟨-, -, h⟩ := whileRunning_eq_next.mp h
    split at h
    · obtain ⟨u, hu, ⟨-, h⟩ | ⟨hn, rfl⟩⟩ := andThen_eq_next.mp h
      · cases h
        obtain ⟨ps, hc, -, -, ho⟩ := execSend_emits hu
        exact ⟨ps, hc _, one ho⟩
      · obtain ⟨ps, -, -, he, ho⟩ := execSend_emits hu
        exact ⟨ps, he hn, one ho⟩
    · cases h
  | idOrphan =>
    obtain ⟨-, -, h⟩ := whileRunning_eq_next.mp h
    cases h
    refine ⟨[], ?_, by simp⟩
    exact
      { kept := rfl
        delivered := by simp
        out := ⟨[.diag (.orphanedByte hi.off)], by simp⟩
        ids := by simp
        curId := fun _ => rfl
        silent := fun _ => rfl
        ended := fun hr => .inl ⟨hr, rfl⟩ }
  | data =>
    obtain ⟨-, -, h⟩ := whileRunning_eq_next.mp h
    split at h
    · cases h
      refine ⟨[], ?_, by simp⟩
      exact
        { kept := rfl
          delivered := by simp
          out := ⟨[.ended .faultNoCurrentId], by simp⟩
          ids := by simp
          curId := fun hc => hc
          silent := fun _ => rfl
          ended := fun _ => .inr ⟨.inr rfl, _, _, rfl⟩ }
    · next c hc =>
      obtain ⟨u, hu, ⟨hur, h⟩ | ⟨hn, rfl⟩⟩ := andThen_eq_next.mp h
      · obtain ⟨ps, -, hp, -, ho⟩ := execSend_emits hu
        obtain ⟨qs, -, hq, -, ho'⟩ := execSend_emits h
        have e₁ := hp (by simp [hc])
        have e₂ := hq (e₁.curId (by simp [hc]))
        exact ⟨ps ++ qs, e₁.trans hur e₂, by simpa using ho.append ho'⟩
      · obtain ⟨ps, -, hp, -, ho⟩ := execSend_emits hu
        exact ⟨ps, hp (by simp [hc]), ho.trans (by simp)⟩

/-- The last half-word's walk, with its indices as numbers (R74, R150). -/
theorem demuxLast_eq (s : State) : demuxLast s = withEntry s 14 fun lo => withEntry s 15 fun hi =>
    if ctrlBit lo.byte then execHwLastId lo hi.byte s else execHwLastData lo hi.byte s := rfl

/-- `DEMUX`, with its indices as numbers (R150). -/
theorem execDemux_eq (s : State) : execDemux s = whileRunning s (s.n.val == 16)
    (withEntry s 15 fun e => andThen (execAux e.byte s) (demuxWalk [0, 1, 2, 3, 4, 5, 6])) := rfl

/-- What half-word `i` of the walk can do. -/
theorem demuxHalf_emits {i : HalfIndex} {s t : State} (h : demuxHalf i s = .next t) :
    ∃ lo hi ps, s.memRead (2 * i.val) = some lo ∧ s.memRead (2 * i.val + 1) = some hi ∧ Emits s t ps ∧
      (ps.map (·.off)).Sublist [lo.off, hi.off] := by
  obtain ⟨lo, hlo, h⟩ := withEntry_eq_next.mp h
  obtain ⟨hi, hhi, h⟩ := withEntry_eq_next.mp h
  obtain ⟨ps, he, ho⟩ := runHalfClass_emits h
  exact ⟨lo, hi, ps, hlo, hhi, he, ho⟩

/-- What half-word 7 can do (R155, R156). -/
theorem demuxLast_emits {s t : State} (h : demuxLast s = .next t) :
    ∃ lo ps, s.memRead 14 = some lo ∧ Emits s t ps ∧ (ps.map (·.off)).Sublist [lo.off] := by
  obtain ⟨lo, hlo, h⟩ := withEntry_eq_next.mp h
  obtain ⟨hi, -, h⟩ := withEntry_eq_next.mp h
  refine ⟨lo, ?_⟩
  split at h
  · obtain ⟨-, -, h⟩ := whileRunning_eq_next.mp h
    cases h
    exact ⟨[], hlo, (Emits.refl s).setCurId _, by simp⟩
  · obtain ⟨-, -, h⟩ := whileRunning_eq_next.mp h
    split at h
    · cases h
      refine ⟨[], hlo, ?_, by simp⟩
      exact
        { kept := rfl
          delivered := by simp
          out := ⟨[.ended .faultNoCurrentId], by simp⟩
          ids := by simp
          curId := fun hc => hc
          silent := fun _ => rfl
          ended := fun _ => .inr ⟨.inr rfl, _, _, rfl⟩ }
    · next c hc =>
      obtain ⟨ps, -, hp, -, ho⟩ := execSend_emits h
      exact ⟨ps, hlo, hp (by simp [hc]), ho⟩

/-- The buffer indices the walk over half-words `is` and half-word 7 may send from. -/
def walkIndices (is : List HalfIndex) : List Nat := is.flatMap (fun i => [2 * i.val, 2 * i.val + 1]) ++ [14]

theorem walkIndices_halfIndices : walkIndices halfIndices = List.range 15 := by decide

/-- What the walk can do: its packets' offsets are those of the entries it passes, in the order it passes them. -/
theorem demuxWalk_emits {offs : Nat → Offset} {is : List HalfIndex} {s t : State}
    (hoffs : ∀ j e, s.memRead j = some e → e.off = offs j) (h : demuxWalk is s = .next t) :
    ∃ ps, Emits s t ps ∧ (ps.map (·.off)).Sublist ((walkIndices is).map offs) := by
  induction is generalizing s with
  | nil =>
    obtain ⟨lo, ps, hlo, he, ho⟩ := demuxLast_emits h
    exact ⟨ps, he, by simpa [walkIndices, hoffs _ _ hlo] using ho⟩
  | cons i is ih =>
    obtain ⟨u, hu, h⟩ := andThen_eq_next.mp h
    obtain ⟨lo, hi, ps, hlo, hhi, he, ho⟩ := demuxHalf_emits hu
    rw [hoffs _ _ hlo, hoffs _ _ hhi] at ho
    rcases h with ⟨hur, h⟩ | ⟨-, rfl⟩
    · obtain ⟨qs, he', ho'⟩ := ih (fun j e hj => hoffs j e (by rwa [he.memRead] at hj)) h
      refine ⟨ps ++ qs, he.trans hur he', ?_⟩
      simpa [walkIndices] using ho.append ho'
    · refine ⟨ps, he, ho.trans ?_⟩
      simp [walkIndices]

/-- What `DEMUX` can do. -/
theorem execDemux_emits {offs : Nat → Offset} {s t : State}
    (hoffs : ∀ j e, s.memRead j = some e → e.off = offs j) (h : execDemux s = .next t) :
    ∃ ps, Emits s t ps ∧ (ps.map (·.off)).Sublist ((List.range 15).map offs) := by
  obtain ⟨hr, -, h⟩ := whileRunning_eq_next.mp h
  obtain ⟨e, -, h⟩ := withEntry_eq_next.mp h
  have haux : execAux e.byte s = .next (s.setAuxVec (auxVector e.byte)) := by simp [execAux, hr]
  rw [haux, andThen_next_running (by simpa using hr)] at h
  obtain ⟨ps, he, ho⟩ := demuxWalk_emits (offs := offs) (fun j e hj => hoffs j e (by simpa using hj)) h
  refine ⟨ps, ?_, walkIndices_halfIndices ▸ ho⟩
  have e₀ : Emits s (s.setAuxVec (auxVector e.byte)) [] := { Emits.refl s with kept := rfl }
  simpa using e₀.trans (by simpa using hr) he

/-! ### Running on to the end -/

theorem sinkAccepts_mono {s : State} {j k : Nat} (hjk : j ≤ k) (h : s.sinkAccepts k) : s.sinkAccepts j := by
  obtain ⟨rest, h⟩ := h
  refine ⟨List.replicate (k - j) .ok ++ rest, ?_⟩
  rw [h, ← List.append_assoc, List.replicate_append_replicate]
  congr 2; omega

/-- A packet offered to a sink that accepts `k + 1` leaves a sink that accepts `k`, and the run goes on. -/
theorem execSend_accepted {s : State} {id : ChanId} {d : Byte} {off : Offset} {ts : Timestamp} {k : Nat}
    (hr : s.status = .running) (ha : s.sinkAccepts (k + 1)) :
    ∃ t, execSend id d off ts s = .next t ∧ t.status = .running ∧ t.curId = s.curId ∧ t.sinkAccepts k := by
  obtain ⟨rest, hrest⟩ := ha
  by_cases hid : id = 0
  · subst hid
    exact ⟨s, execSend_null hr, hr, rfl, sinkAccepts_mono (Nat.le_succ k) ⟨rest, hrest⟩⟩
  · have hcons : s.answers = .ok :: (List.replicate k .ok ++ rest) := by
      rw [hrest, List.replicate_succ, List.cons_append]
    exact ⟨_, execSend_ok hr hid hcons, hr, rfl, rest, rfl⟩

/-- A half-word runs on, where there is a Current Channel ID or the half-word brings one. -/
theorem runHalfClass_runs {i : HalfIndex} {lo hi : Entry} {s : State} {k : Nat} (hr : s.status = .running)
    (ha : s.sinkAccepts (k + 2)) (hc : s.curId.isSome = true ∨ ctrlBit lo.byte = true) :
    ∃ t, runHalfClass (s.halfClassOf i lo) i lo hi s = .next t ∧ t.status = .running ∧ t.curId.isSome = true ∧
      t.sinkAccepts k := by
  have hmono {u : State} (h : u.sinkAccepts (k + 1)) : u.sinkAccepts k := sinkAccepts_mono (Nat.le_succ k) h
  cases hcl : s.halfClassOf i lo with
  | idImm =>
    obtain ⟨u, hu, hur, -, hua⟩ := execSend_accepted (id := idField lo.byte) (d := hi.byte) (off := hi.off) (ts := hi.ts) hr ha
    refine ⟨u.setCurId (idField lo.byte), ?_, hur, rfl, hmono hua⟩
    simp [runHalfClass, execHwIdImm, hr, hcl, hu, hur]
  | idDelay =>
    have hsome : ∃ c, s.curId = some c := by
      cases hs : s.curId with
      | some c => exact ⟨c, rfl⟩
      | none =>
        rw [State.halfClassOf, halfClass, State.curValid, hs] at hcl
        revert hcl; cases ctrlBit lo.byte <;> cases auxBit s.auxVec i <;> simp
    obtain ⟨c, hs⟩ := hsome
    obtain ⟨u, hu, hur, -, hua⟩ := execSend_accepted (id := c) (d := hi.byte) (off := hi.off) (ts := hi.ts) hr ha
    refine ⟨u.setCurId (idField lo.byte), ?_, hur, rfl, hmono hua⟩
    simp [runHalfClass, execHwIdDelay, hr, hcl, hs, hu, hur]
  | idOrphan =>
    refine ⟨(s.countOrphan.log (.orphanedByte hi.off)).setCurId (idField lo.byte), ?_, hr, rfl,
      sinkAccepts_mono (by omega) ha⟩
    simp [runHalfClass, execHwIdOrphan, hr, hcl]
  | data =>
    have hctrl : ctrlBit lo.byte = false := by
      rw [State.halfClassOf, halfClass] at hcl
      revert hcl; cases ctrlBit lo.byte <;> cases auxBit s.auxVec i <;> cases s.curValid <;> simp
    obtain ⟨c, hs⟩ := Option.isSome_iff_exists.mp (hc.resolve_right (by simp [hctrl]))
    obtain ⟨u, hu, hur, huc, hua⟩ :=
      execSend_accepted (id := c) (d := dataDatum lo.byte (auxBit s.auxVec i)) (off := lo.off) (ts := lo.ts) hr ha
    obtain ⟨v, hv, hvr, hvc, hva⟩ := execSend_accepted (id := c) (d := hi.byte) (off := hi.off) (ts := hi.ts) hur hua
    refine ⟨v, ?_, hvr, by simp [hvc, huc, hs], hva⟩
    simp [runHalfClass, execHwData, hr, hcl, hs, hu, hur, hv]

/-- Every entry of a full buffer holds a value (R52). -/
def State.full (s : State) : Prop := s.n.val = 16 ∧ ∀ j, j < 16 → (s.memRead j).isSome = true

theorem holdsFrame_read {s : State} {f : Fin 16 → Entry} (h : s.holdsFrame f) {j : Nat} (hj : j < 16) :
    s.memRead j = some (f ⟨j, hj⟩) := h.2 ⟨j, hj⟩

theorem holdsFrame_full {s : State} {f : Fin 16 → Entry} (h : s.holdsFrame f) : s.full :=
  ⟨h.1, fun j hj => by simp [h.2 ⟨j, hj⟩]⟩

theorem holdsFrame_n {s : State} {f : Fin 16 → Entry} (h : s.holdsFrame f) : s.n.val = 16 := h.1

/-- While running, at most 15 entries are held between events (R25, R44(a)). -/
theorem State.Inv.fill_le {s : State} (h : s.Inv) (hr : s.status = .running) : s.n.val ≤ 15 :=
  Nat.le_of_lt_succ (h.fill hr)

theorem full_congr {s t : State} (hb : t.buf = s.buf) (hn : t.n = s.n) (h : s.full) : t.full :=
  ⟨by rw [hn]; exact h.1, fun j hj => by rw [memRead_congr hb hn]; exact h.2 j hj⟩

theorem demuxLast_runs {s : State} (hf : s.full) (hr : s.status = .running) (ha : s.sinkAccepts 1)
    (hc : s.curId.isSome = true) :
    ∃ t, demuxLast s = .next t ∧ t.status = .running ∧ t.curId.isSome = true := by
  obtain ⟨lo, hlo⟩ := Option.isSome_iff_exists.mp (hf.2 14 (by omega))
  obtain ⟨hi, hhi⟩ := Option.isSome_iff_exists.mp (hf.2 15 (by omega))
  obtain ⟨c, hs⟩ := Option.isSome_iff_exists.mp hc
  rw [demuxLast_eq, withEntry_some hlo, withEntry_some hhi]
  cases hctrl : ctrlBit lo.byte with
  | true => exact ⟨s.setCurId (idField lo.byte), by simp [execHwLastId, hr, hctrl], hr, rfl⟩
  | false =>
    obtain ⟨u, hu, hur, huc, -⟩ := execSend_accepted (id := c) (d := lo.byte) (off := lo.off) (ts := lo.ts) (k := 0) hr ha
    exact ⟨u, by simp [execHwLastData, hr, hctrl, hs, hu], hur, by simp [huc, hs]⟩

theorem demuxWalk_runs {is : List HalfIndex} {s : State} (hf : s.full) (hr : s.status = .running)
    (ha : s.sinkAccepts (2 * is.length + 1))
    (hc : s.curId.isSome = true ∨ ∃ i is', is = i :: is' ∧ ∀ e, s.memRead (2 * i.val) = some e → ctrlBit e.byte = true) :
    ∃ t, demuxWalk is s = .next t ∧ t.status = .running ∧ t.curId.isSome = true := by
  induction is generalizing s with
  | nil =>
    have hc' : s.curId.isSome = true := by
      rcases hc with hc | ⟨i, is', h, -⟩
      · exact hc
      · cases h
    exact demuxLast_runs hf hr ha hc'
  | cons i is ih =>
    obtain ⟨lo, hlo⟩ := Option.isSome_iff_exists.mp (hf.2 (2 * i.val) (by have := i.lt_seven; omega))
    obtain ⟨hi, hhi⟩ := Option.isSome_iff_exists.mp (hf.2 (2 * i.val + 1) (by have := i.lt_seven; omega))
    have hc' : s.curId.isSome = true ∨ ctrlBit lo.byte = true := by
      rcases hc with hc | ⟨i', is', h, hb⟩
      · exact .inl hc
      · cases h; exact .inr (hb lo hlo)
    obtain ⟨u, hu, hur, huc, hua⟩ := runHalfClass_runs (i := i) (hi := hi) (k := 2 * is.length + 1) hr
      (by simpa [Nat.mul_add, Nat.add_right_comm] using ha) hc'
    have hd : demuxHalf i s = .next u := by rw [demuxHalf, withEntry_some hlo, withEntry_some hhi, hu]
    obtain ⟨_, _, ps, -, -, he, -⟩ := demuxHalf_emits hd
    obtain ⟨t, ht, htr, htc⟩ := ih (full_congr he.buf he.fill hf) hur hua (.inl huc)
    exact ⟨t, by rw [demuxWalk, hd, andThen_next_running hur, ht], htr, htc⟩

/-- `DEMUX` runs to the end of a full buffer, where the sink accepts the frame's packets and there is a Current Channel ID
or the frame begins with one. -/
theorem execDemux_runs {s : State} (hf : s.full) (hr : s.status = .running) (ha : s.sinkAccepts 15)
    (hc : s.curId.isSome = true ∨ ∀ e, s.memRead 0 = some e → ctrlBit e.byte = true) :
    ∃ t, execDemux s = .next t ∧ t.status = .running ∧ t.curId.isSome = true := by
  obtain ⟨e, he⟩ := Option.isSome_iff_exists.mp (hf.2 15 (by omega))
  have haux : execAux e.byte s = .next (s.setAuxVec (auxVector e.byte)) := by simp [execAux, hr]
  obtain ⟨t, ht, htr, htc⟩ := demuxWalk_runs (is := [0, 1, 2, 3, 4, 5, 6]) (s := s.setAuxVec (auxVector e.byte))
    (full_congr rfl rfl hf) (by simpa using hr) ha
    (by rcases hc with hc | hc
        · exact .inl hc
        · exact .inr ⟨0, _, rfl, fun e' he' => hc e' (by simpa using he')⟩)
  refine ⟨t, ?_, htr, htc⟩
  rw [execDemux_eq, whileRunning_of hr (by simp [hf.1]), withEntry_some he, haux,
    andThen_next_running (by simpa using hr), ht]

end Sys2Proof.Machine
end

