-- ==== Sys2Proof/Laws/Frame.lean ====
section
/-! SUPPORT. What the frame check reads, and everything a completed frame can lead to (R126 to R131), said once. -/

namespace Sys2Proof.Machine

/-! ### The frame check -/

theorem entriesAt_congr {s t : State} (h : ∀ j, t.memRead j = s.memRead j) (js : List Nat) :
    t.entriesAt js = s.entriesAt js := by
  induction js with
  | nil => rfl
  | cons j js ih => simp [State.entriesAt, h, ih]

/-- The frame check reads the buffer, the table and the policy (R142). -/
theorem frameOk_congr {s t : State} (h : ∀ j, t.memRead j = s.memRead j) (hm : t.member = s.member)
    (hi : t.intermix = s.intermix) : t.frameOk = s.frameOk := by
  simp [State.frameOk, entriesAt_congr h, hm, hi]

@[simp] theorem setVerdict_frameOk (s : State) (ok : Bool) : (s.setVerdict ok).frameOk = s.frameOk :=
  frameOk_congr (fun _ => rfl) rfl rfl

@[simp] theorem emit_frameOk (s : State) (o : Output) : (s.emit o).frameOk = s.frameOk :=
  frameOk_congr (fun _ => rfl) rfl rfl

@[simp] theorem setVerdict_frameIs (s : State) (ok : Bool) (c : FrameClass) :
    (s.setVerdict ok).frameIs c = s.frameIs c := by
  simp [State.frameIs]

/-- On a full buffer the frame check answers, from its eight low bytes (R141, R142). -/
theorem frameOk_of_holdsFrame {s : State} {f : Fin 16 → Entry} (h : s.holdsFrame f) :
    s.frameOk = some (lowBytesOk s.member s.intermix
      [(f 0).byte, (f 2).byte, (f 4).byte, (f 6).byte, (f 8).byte, (f 10).byte, (f 12).byte, (f 14).byte]) := by
  have r (j : Fin 16) : s.memRead j.val = some (f j) := h.2 j
  have h0 := r 0; have h2 := r 2; have h4 := r 4; have h6 := r 6
  have h8 := r 8; have h10 := r 10; have h12 := r 12; have h14 := r 14
  simp at h0 h2 h4 h6 h8 h10 h12 h14
  simp [State.frameOk, lowIndices_eq, State.entriesAt, h0, h2, h4, h6, h8, h10, h12, h14]

/-- The frame check answers on every full buffer. -/
theorem full_frameOk {s : State} (h : s.full) : s.frameOk.isSome = true := by
  have h' (j : Nat) (hj : j < 16) : ∃ e, s.memRead j = some e := Option.isSome_iff_exists.mp (h.2 j hj)
  obtain ⟨_, h0⟩ := h' 0 (by omega); obtain ⟨_, h2⟩ := h' 2 (by omega); obtain ⟨_, h4⟩ := h' 4 (by omega)
  obtain ⟨_, h6⟩ := h' 6 (by omega); obtain ⟨_, h8⟩ := h' 8 (by omega); obtain ⟨_, h10⟩ := h' 10 (by omega)
  obtain ⟨_, h12⟩ := h' 12 (by omega); obtain ⟨_, h14⟩ := h' 14 (by omega)
  simp [State.frameOk, lowIndices_eq, State.entriesAt, h0, h2, h4, h6, h8, h10, h12, h14]

/-- A frame's row is what the check, the mode and `consec` say it is. -/
theorem frameIs_iff {s : State} {ok : Bool} {c : FrameClass} (hn : s.n.val = 16) (hf : s.frameOk = some ok) :
    s.frameIs c = true ↔ frameClass s.mode ok s.consec = some c := by
  simp [State.frameIs, hn, hf, Config.frameSize]

theorem frameIs_elim {s : State} {c : FrameClass} (h : s.frameIs c = true) :
    s.n.val = 16 ∧ ∃ ok, s.frameOk = some ok ∧ frameClass s.mode ok s.consec = some c := by
  simp only [State.frameIs, Bool.and_eq_true, beq_iff_eq, Config.frameSize] at h
  obtain ⟨hn, h⟩ := h
  cases hf : s.frameOk with
  | none => simp [hf] at h
  | some ok => exact ⟨hn, ok, rfl, by simpa [hf] using h⟩

/-! ### The rescan -/

/-- What the rescan over the candidates `js` can do (R128). -/
theorem rescan_eq_next {js : List Nat} {s t : State} (h : rescan js s = .next t) :
    (t = s.dropFrame ∧ ∀ j ∈ js, ∃ e, s.memRead j = some e ∧ passesByteCheck s.member e.byte = false) ∨
    ∃ pre j post e, js = pre ++ j :: post ∧ s.memRead j = some e ∧ passesByteCheck s.member e.byte = true ∧
      t = s.compact j ∧ ∀ k ∈ pre, ∃ e', s.memRead k = some e' ∧ passesByteCheck s.member e'.byte = false := by
  induction js with
  | nil => cases h; exact .inl ⟨rfl, by simp⟩
  | cons j js ih =>
    obtain ⟨e, he, h⟩ := withEntry_eq_next.mp h
    split at h
    · next hp => cases h; exact .inr ⟨[], j, js, e, rfl, he, hp, rfl, by simp⟩
    · next hp =>
      have hp' : passesByteCheck s.member e.byte = false := by simpa using hp
      rcases ih h with ⟨rfl, hall⟩ | ⟨pre, k, post, e', rfl, he', hp'', rfl, hall⟩
      · refine .inl ⟨rfl, fun k hk => ?_⟩
        rcases List.mem_cons.mp hk with rfl | hk
        · exact ⟨e, he, hp'⟩
        · exact hall k hk
      · refine .inr ⟨j :: pre, k, post, e', rfl, he', hp'', rfl, fun i hi => ?_⟩
        rcases List.mem_cons.mp hi with rfl | hi
        · exact ⟨e, he, hp'⟩
        · exact hall i hi

/-- With every entry written the rescan answers. -/
theorem rescan_runs {js : List Nat} {s : State} (h : ∀ j ∈ js, (s.memRead j).isSome = true) :
    ∃ t, rescan js s = .next t := by
  induction js with
  | nil => exact ⟨_, rfl⟩
  | cons j js ih =>
    obtain ⟨e, he⟩ := Option.isSome_iff_exists.mp (h j (by simp))
    rw [rescan, withEntry_some he]
    split
    · exact ⟨_, rfl⟩
    · exact ih fun k hk => h k (by simp [hk])

/-! ### The completed frame -/

/-- Everything the rows of a completed frame can do to state `s` (R127 to R131). -/
inductive FrameEffect (s : State) : State → Prop where
  /-- R127, to the end. -/
  | searchValid (e : Entry) (u : State) (ps : List Packet) (hm : s.mode = .searching) (hf : s.frameOk = some true)
      (he : s.memRead 0 = some e) (hd : execDemux (s.log (.validFrame e.off)) = .next u) (hu : u.status = .running)
      (hps : Emits (s.log (.validFrame e.off)) u ps) :
      FrameEffect s (((u.countValid.setMode .framing).setConsec 1).dropFrame)
  /-- R127, stopped by the demultiplexer. -/
  | searchStopped (e : Entry) (u : State) (ps : List Packet) (hm : s.mode = .searching) (hf : s.frameOk = some true)
      (he : s.memRead 0 = some e) (hd : execDemux (s.log (.validFrame e.off)) = .next u) (hu : u.status ≠ .running)
      (hps : Emits (s.log (.validFrame e.off)) u ps) : FrameEffect s u
  /-- R128, a candidate found. -/
  | compacted (j : Nat) (e : Entry) (hm : s.mode = .searching) (hf : s.frameOk = some false) (hj : 1 ≤ j ∧ j ≤ 15)
      (he : s.memRead j = some e) (hp : passesByteCheck s.member e.byte = true)
      (hfirst : ∀ k, 1 ≤ k → k < j → ∃ e', s.memRead k = some e' ∧ passesByteCheck s.member e'.byte = false) :
      FrameEffect s (s.countInvalid.compact j)
  /-- R128, no candidate. -/
  | emptied (hm : s.mode = .searching) (hf : s.frameOk = some false)
      (hnone : ∀ k, 1 ≤ k → k ≤ 15 → ∃ e', s.memRead k = some e' ∧ passesByteCheck s.member e'.byte = false) :
      FrameEffect s s.countInvalid.dropFrame
  /-- R129, to the end. -/
  | valid (u : State) (ps : List Packet) (hm : s.mode = .framing) (hf : s.frameOk = some true)
      (hd : execDemux s = .next u) (hu : u.status = .running) (hps : Emits s u ps) :
      FrameEffect s ((u.countValid.setConsec (satInc u.consec)).dropFrame)
  /-- R129, stopped by the demultiplexer. -/
  | stopped (u : State) (ps : List Packet) (hm : s.mode = .framing) (hf : s.frameOk = some true)
      (hd : execDemux s = .next u) (hu : u.status ≠ .running) (hps : Emits s u ps) : FrameEffect s u
  /-- R130. -/
  | tolerated (e : Entry) (hm : s.mode = .framing) (hf : s.frameOk = some false) (hc : s.consec ≠ 0)
      (he : s.memRead 0 = some e) :
      FrameEffect s (((s.countInvalid.log (.invalidFrame s.consec e.off)).setConsec 0).dropFrame)
  /-- R131. -/
  | resumed (e : Entry) (hm : s.mode = .framing) (hf : s.frameOk = some false) (hc : s.consec = 0)
      (he : s.memRead 0 = some e) :
      FrameEffect s (((s.countInvalid.log (.resumeSearch e.off)).setMode .searching).dropFrame)

theorem candidates_split {pre post : List Nat} {j : Nat} (h : candidates = pre ++ j :: post) :
    (1 ≤ j ∧ j ≤ 15) ∧ ∀ k, 1 ≤ k → k < j → k ∈ pre := by
  have hc : candidates = List.range' 1 15 := rfl
  have hlen : pre.length + post.length = 14 := by
    have := congrArg List.length h
    simp [candidates] at this
    omega
  have hj : candidates[pre.length]? = some j := by rw [h]; simp
  rw [hc, List.getElem?_range' (by omega)] at hj
  have hj' : 1 + pre.length = j := by simpa using hj
  refine ⟨by omega, fun k h1 h2 => ?_⟩
  have hk : candidates[k - 1]? = some k := by
    rw [hc, List.getElem?_range' (by omega)]; simp; omega
  rw [h, List.getElem?_append_left (by omega)] at hk
  exact List.mem_of_getElem? hk

/-- A completed frame's row does one of these things. -/
theorem runFrameClass_effect {c : FrameClass} {s t : State} (h : runFrameClass c s = .next t) : FrameEffect s t := by
  cases c with
  | searchValid =>
    obtain ⟨-, hc, h⟩ := whileRunning_eq_next.mp h
    obtain ⟨-, ok, hf, hcl⟩ := frameIs_elim hc
    obtain ⟨e, he, h⟩ := withEntry_eq_next.mp h
    obtain ⟨u, hu, h⟩ := andThen_eq_next.mp h
    obtain ⟨ps, hps, -⟩ := execDemux_emits (offs := fun j => ((s.memRead j).getD e).off)
      (fun j e' hj => by simp at hj; simp [hj]) hu
    have hm : s.mode = .searching ∧ ok = true := by
      revert hcl; unfold frameClass; split <;> (try split) <;> (try split) <;> simp_all
    rcases h with ⟨hur, h⟩ | ⟨hun, rfl⟩
    · cases h; exact .searchValid e u ps hm.1 (by rw [hf, hm.2]) he hu hur hps
    · exact .searchStopped e u ps hm.1 (by rw [hf, hm.2]) he hu hun hps
  | searchInvalid =>
    obtain ⟨-, hc, h⟩ := whileRunning_eq_next.mp h
    obtain ⟨-, ok, hf, hcl⟩ := frameIs_elim hc
    have hm : s.mode = .searching ∧ ok = false := by
      revert hcl; unfold frameClass; split <;> (try split) <;> (try split) <;> simp_all
    have hf' : s.frameOk = some false := by rw [hf, hm.2]
    rcases rescan_eq_next h with ⟨rfl, hall⟩ | ⟨pre, j, post, e, hs, he, hp, rfl, hall⟩
    · refine .emptied hm.1 hf' fun k h1 h2 => ?_
      have hk : k ∈ candidates := by
        have : candidates = List.range' 1 15 := rfl
        rw [this, List.mem_range'_1]; omega
      obtain ⟨e', he', hp'⟩ := hall k hk
      exact ⟨e', by simpa using he', by simpa using hp'⟩
    · obtain ⟨hj, hpre⟩ := candidates_split hs
      refine .compacted j e hm.1 hf' hj (by simpa using he) (by simpa using hp) fun k h1 h2 => ?_
      obtain ⟨e', he', hp'⟩ := hall k (hpre k h1 h2)
      exact ⟨e', by simpa using he', by simpa using hp'⟩
  | valid =>
    obtain ⟨-, hc, h⟩ := whileRunning_eq_next.mp h
    obtain ⟨-, ok, hf, hcl⟩ := frameIs_elim hc
    obtain ⟨u, hu, h⟩ := andThen_eq_next.mp h
    obtain ⟨ps, hps, -⟩ := execDemux_emits (offs := fun j => ((s.memRead j).elim 0 Entry.off))
      (fun j e' hj => by simp [hj]) hu
    have hm : s.mode = .framing ∧ ok = true := by
      revert hcl; unfold frameClass; split <;> (try split) <;> (try split) <;> simp_all
    rcases h with ⟨hur, h⟩ | ⟨hun, rfl⟩
    · cases h; exact .valid u ps hm.1 (by rw [hf, hm.2]) hu hur hps
    · exact .stopped u ps hm.1 (by rw [hf, hm.2]) hu hun hps
  | invalidTolerated =>
    obtain ⟨-, hc, h⟩ := whileRunning_eq_next.mp h
    obtain ⟨-, ok, hf, hcl⟩ := frameIs_elim hc
    obtain ⟨e, he, h⟩ := withEntry_eq_next.mp h
    cases h
    have hm : s.mode = .framing ∧ ok = false ∧ s.consec ≠ 0 := by
      revert hcl; unfold frameClass; split <;> (try split) <;> (try split) <;> simp_all
    exact .tolerated e hm.1 (by rw [hf, hm.2.1]) hm.2.2 he
  | invalidResume =>
    obtain ⟨-, hc, h⟩ := whileRunning_eq_next.mp h
    obtain ⟨-, ok, hf, hcl⟩ := frameIs_elim hc
    obtain ⟨e, he, h⟩ := withEntry_eq_next.mp h
    cases h
    have hm : s.mode = .framing ∧ ok = false ∧ s.consec = 0 := by
      revert hcl; unfold frameClass; split <;> (try split) <;> (try split) <;> simp_all
    exact .resumed e hm.1 (by rw [hf, hm.2.1]) hm.2.2 he

/-- `FRAME_COMPLETE` checks the frame and then does one of these things (R126). -/
theorem execFrameComplete_effect {s t : State} (h : execFrameComplete s = .next t) :
    s.status = .running ∧ s.n.val = 16 ∧ s.mode.syncing = false ∧
      ∃ ok, s.frameOk = some ok ∧ FrameEffect (s.setVerdict ok) t := by
  obtain ⟨hr, hc, h⟩ := whileRunning_eq_next.mp h
  simp only [Bool.and_eq_true, beq_iff_eq, Bool.not_eq_true', Config.frameSize] at hc
  obtain ⟨u, hu, h⟩ := andThen_eq_next.mp h
  obtain ⟨-, -, hu⟩ := whileRunning_eq_next.mp hu
  split at hu
  · next ok hf =>
    cases hu
    rcases h with ⟨-, h⟩ | ⟨hn, -⟩
    · split at h
      · exact ⟨hr, hc.1, hc.2, ok, hf, runFrameClass_effect h⟩
      · cases h
    · exact absurd hr hn
  · cases hu

/-- `FRAME_COMPLETE` of a full buffer is its row, with the check's answer handed over (R126). -/
theorem execFrameComplete_eq {s : State} {ok : Bool} {c : FrameClass} (hr : s.status = .running) (hn : s.n.val = 16)
    (hf : s.frameOk = some ok) (hc : frameClass s.mode ok s.consec = some c) :
    execFrameComplete s = runFrameClass c (s.setVerdict ok) := by
  have hsync : s.mode.syncing = false := by
    revert hc; unfold frameClass; split <;> simp_all [Mode.syncing]
  rw [execFrameComplete, whileRunning_of hr (by simp [hn, hsync, Config.frameSize]), execFrameCheck,
    whileRunning_of hr (by simp [hn, Config.frameSize]), hf]
  simp [hr, hc]

end Sys2Proof.Machine
end

