-- ==== Sys2Proof/Laws/Events.lean ====
section
/-! SUPPORT. Everything one event can do, said once: `ByteEffect` for the classes of a `BYTE` event, and what a step can
answer. -/

namespace Sys2Proof.Machine

/-! ### Classes of an input byte -/

theorem matchClass_syncing {m : Mode} {n : Nat} {b : Byte} (h : matchClass m n b = .noSync ∨ matchClass m n b = .frameByte) :
    m = .searching ∨ m = .framing := by
  cases m with
  | searching => exact .inl rfl
  | framing => exact .inr rfl
  | searchingSyncing k => simp only [matchClass] at h; split at h <;> (try split at h) <;> simp at h
  | framingSyncing k => simp only [matchClass] at h; split at h <;> (try split at h) <;> simp at h

theorem matchClass_frameByte {m : Mode} {n : Nat} {b : Byte} :
    matchClass m n b = .frameByte ↔ (m = .searching ∨ m = .framing) ∧ n ≠ 0 := by
  constructor
  · intro h
    have hm := matchClass_syncing (.inr h)
    refine ⟨hm, ?_⟩
    rintro rfl
    rcases hm with rfl | rfl <;> simp [matchClass] at h <;> split at h <;> simp_all
  · rintro ⟨rfl | rfl, hn⟩ <;> simp [matchClass, hn]

theorem matchClass_noSync {m : Mode} {n : Nat} {b : Byte} :
    matchClass m n b = .noSync ↔ (m = .searching ∨ m = .framing) ∧ n = 0 ∧ b ≠ syncFirst := by
  constructor
  · intro h
    have hm := matchClass_syncing (.inl h)
    refine ⟨hm, ?_⟩
    rcases hm with rfl | rfl <;> simp [matchClass] at h <;> split at h <;> simp_all
  · rintro ⟨rfl | rfl, rfl, hb⟩ <;> simp [matchClass, hb]

/-- Everything a `BYTE` event can do to `s`, the state with the byte already counted (R100 to R107, R122 to R126). -/
inductive ByteEffect (b : Byte) (ts : Timestamp) (s : State) : State → Prop where
  /-- R100, R101, R103: the mode alone. -/
  | sync (m : Mode) (hl : (s.mode, m) ∈ legalPairs) (hn : m.syncing = true → s.mode.syncing = true ∨ s.n.val = 0)
      (hs : m = .searching → s.mode.syncing = true) (hf : m = .framing → s.mode.syncing = true) :
      ByteEffect b ts s (s.setMode m)
  /-- R102, R105: the mode and a diagnostic. -/
  | report (m : Mode) (d : Diag) (hl : (s.mode, m) ∈ legalPairs) (hm : m = .searching ∨ m = .framing)
      (hs : s.mode.syncing = true) : ByteEffect b ts s ((s.setMode m).log d)
  /-- R123, stored. -/
  | accepted (hm : s.mode = .searching) (hn : s.n.val = 0) (hp : passesByteCheck s.member b = true) :
      ByteEffect b ts s ((s.setVerdict true).append (s.entryOf b ts))
  /-- R123, discarded. -/
  | discarded (hm : s.mode = .searching) (hn : s.n.val = 0) : ByteEffect b ts s (s.setVerdict false)
  /-- R124. -/
  | first (hm : s.mode = .framing) (hn : s.n.val = 0) : ByteEffect b ts s (s.append (s.entryOf b ts))
  /-- R125, short of the sixteenth. -/
  | stored (hm : s.mode = .searching ∨ s.mode = .framing) (hn : 1 ≤ s.n.val ∧ s.n.val ≤ 14) :
      ByteEffect b ts s (s.append (s.entryOf b ts))
  /-- R125 and R126: the sixteenth. -/
  | completed (ok : Bool) (t : State) (hm : s.mode = .searching ∨ s.mode = .framing) (hn : s.n.val = 15)
      (hf : (s.append (s.entryOf b ts)).frameOk = some ok)
      (h : FrameEffect ((s.append (s.entryOf b ts)).setVerdict ok) t) : ByteEffect b ts s t

theorem execFrameByte_effect {b : Byte} {ts : Timestamp} {s t : State} (h : execFrameByte b ts s = .next t) :
    ByteEffect b ts s t := by
  obtain ⟨-, hc, h⟩ := whileRunning_eq_next.mp h
  simp only [Bool.and_eq_true, beq_iff_eq, decide_eq_true_eq, Config.frameSize] at hc
  obtain ⟨hcl, hlt⟩ := hc
  obtain ⟨hm, hn⟩ := matchClass_frameByte.mp hcl
  simp only at h
  split at h
  · next h16 =>
    simp only [State.append_n, Config.frameSize] at h16
    obtain ⟨-, -, -, ok, hf, he⟩ := execFrameComplete_effect h
    exact .completed ok t hm (by omega) hf he
  · next h16 =>
    cases h
    simp only [State.append_n, Config.frameSize] at h16
    exact .stored hm ⟨by omega, by omega⟩

theorem execNoSync_effect {b : Byte} {ts : Timestamp} {s t : State} (h : execNoSync b ts s = .next t) :
    ByteEffect b ts s t := by
  obtain ⟨hr, hc, h⟩ := whileRunning_eq_next.mp h
  obtain ⟨-, hn, -⟩ := matchClass_noSync.mp (by simpa [State.matchClassOf] using hc)
  split at h
  · next hm =>
    obtain ⟨u, hu, h⟩ := andThen_eq_next.mp h
    obtain ⟨-, -, hu⟩ := whileRunning_eq_next.mp hu
    cases hu
    rcases h with ⟨-, h⟩ | ⟨hn', -⟩
    · cases hp : passesByteCheck s.member b with
      | true =>
        simp only [State.setVerdict_verdict, hp, if_true] at h
        obtain ⟨-, -, h⟩ := whileRunning_eq_next.mp h
        cases h
        exact .accepted hm hn hp
      | false =>
        simp only [State.setVerdict_verdict, hp] at h
        obtain ⟨-, -, h⟩ := whileRunning_eq_next.mp h
        cases h
        exact .discarded hm hn
    · exact absurd hr hn'
  · next hm =>
    obtain ⟨-, -, h⟩ := whileRunning_eq_next.mp h
    cases h
    exact .first hm hn
  · cases h
  · cases h

theorem runMatchClass_effect {c : MatchClass} {b : Byte} {ts : Timestamp} {s t : State}
    (h : runMatchClass c b ts s = .next t) : ByteEffect b ts s t := by
  cases c with
  | syncStart =>
    obtain ⟨-, hc, h⟩ := whileRunning_eq_next.mp h
    have hn : s.mode.syncing = false → s.n.val = 0 := by
      intro hs
      have hc' : matchClass s.mode s.n.val syncFirst = .syncStart := by simpa [State.matchClassOf] using hc
      cases hm : s.mode <;> simp [hm, matchClass, Mode.syncing] at hc' hs <;> exact Fin.val_eq_zero_iff.mpr hc'
    cases hm : s.mode with
    | searching =>
      simp only [hm, Mode.startSync] at h; cases h
      exact .sync _ (by rw [hm]; decide) (fun _ => .inr (hn (by rw [hm]; rfl))) (by simp) (by simp)
    | framing =>
      simp only [hm, Mode.startSync] at h; cases h
      exact .sync _ (by rw [hm]; decide) (fun _ => .inr (hn (by rw [hm]; rfl))) (by simp) (by simp)
    | searchingSyncing k => simp [hm, Mode.startSync] at h
    | framingSyncing k => simp [hm, Mode.startSync] at h
  | syncAdvance =>
    obtain ⟨-, -, h⟩ := whileRunning_eq_next.mp h
    cases hm : s.mode with
    | searching => simp [hm, Mode.advanceSync] at h
    | framing => simp [hm, Mode.advanceSync] at h
    | searchingSyncing k =>
      cases k <;> simp [hm, Mode.advanceSync, SyncCount.next] at h <;> subst h <;>
        exact .sync _ (by rw [hm]; decide) (fun _ => .inl (by rw [hm]; rfl)) (by simp) (by simp)
    | framingSyncing k =>
      cases k <;> simp [hm, Mode.advanceSync, SyncCount.next] at h <;> subst h <;>
        exact .sync _ (by rw [hm]; decide) (fun _ => .inl (by rw [hm]; rfl)) (by simp) (by simp)
  | syncCompleteS =>
    obtain ⟨-, hc, h⟩ := whileRunning_eq_next.mp h
    have hm : s.mode = .searchingSyncing .three := by simpa using hc
    cases h
    exact .report _ _ (by rw [hm]; decide) (.inr rfl) (by rw [hm]; rfl)
  | syncCompleteF =>
    obtain ⟨-, hc, h⟩ := whileRunning_eq_next.mp h
    have hm : s.mode = .framingSyncing .three := by simpa using hc
    cases h
    exact .sync _ (by rw [hm]; decide) (by simp [Mode.syncing]) (by simp) (fun _ => by rw [hm]; rfl)
  | syncAbortS =>
    obtain ⟨-, hc, h⟩ := whileRunning_eq_next.mp h
    have hm : ∃ k, s.mode = .searchingSyncing k := by
      have hc' : matchClass s.mode s.n.val b = .syncAbortS := by simpa [State.matchClassOf] using hc
      cases hm : s.mode with
      | searchingSyncing k => exact ⟨k, rfl⟩
      | searching => rw [hm] at hc'; simp only [matchClass] at hc'; split at hc' <;> (try split at hc') <;> simp_all
      | framing => rw [hm] at hc'; simp only [matchClass] at hc'; split at hc' <;> (try split at hc') <;> simp_all
      | framingSyncing k => rw [hm] at hc'; simp only [matchClass] at hc'; split at hc' <;> (try split at hc') <;> simp_all
    obtain ⟨k, hm⟩ := hm
    cases h
    exact .sync _ (by rw [hm]; cases k <;> decide) (by simp [Mode.syncing]) (fun _ => by rw [hm]; rfl) (by simp)
  | syncDerail =>
    obtain ⟨-, hc, h⟩ := whileRunning_eq_next.mp h
    have hm : ∃ k, s.mode = .framingSyncing k := by
      have hc' : matchClass s.mode s.n.val b = .syncDerail := by simpa [State.matchClassOf] using hc
      cases hm : s.mode with
      | framingSyncing k => exact ⟨k, rfl⟩
      | searching => rw [hm] at hc'; simp only [matchClass] at hc'; split at hc' <;> (try split at hc') <;> simp_all
      | framing => rw [hm] at hc'; simp only [matchClass] at hc'; split at hc' <;> (try split at hc') <;> simp_all
      | searchingSyncing k => rw [hm] at hc'; simp only [matchClass] at hc'; split at hc' <;> (try split at hc') <;> simp_all
    obtain ⟨k, hm⟩ := hm
    cases h
    exact .report _ _ (by rw [hm]; cases k <;> decide) (.inl rfl) (by rw [hm]; rfl)
  | noSync => exact execNoSync_effect h
  | frameByte => exact execFrameByte_effect h

/-! ### The mode after a byte -/

theorem FrameEffect.mode_cases {s t : State} (h : FrameEffect s t) :
    (s.mode = .searching ∧ (t.mode = .searching ∨ t.mode = .framing)) ∨
    (s.mode = .framing ∧ (t.mode = .framing ∨ t.mode = .searching)) := by
  cases h with
  | searchValid e u ps hm hf he hd hu hps => exact .inl ⟨hm, .inr rfl⟩
  | searchStopped e u ps hm hf he hd hu hps => exact .inl ⟨hm, .inl (by rw [hps.mode]; simpa using hm)⟩
  | compacted j e hm => exact .inl ⟨hm, .inl (by simpa using hm)⟩
  | emptied hm => exact .inl ⟨hm, .inl (by simpa using hm)⟩
  | valid u ps hm hf hd hu hps => exact .inr ⟨hm, .inl (by simpa [hps.mode] using hm)⟩
  | stopped u ps hm hf hd hu hps => exact .inr ⟨hm, .inl (by rw [hps.mode]; exact hm)⟩
  | tolerated e hm => exact .inr ⟨hm, .inl (by simpa using hm)⟩
  | resumed e hm => exact .inr ⟨hm, .inr rfl⟩

/-- Every class of byte makes a transition of R108's table. -/
theorem ByteEffect.legal {b : Byte} {ts : Timestamp} {s t : State} (h : ByteEffect b ts s t) :
    (s.mode, t.mode) ∈ legalPairs := by
  have both : ∀ {m m' : Mode}, (m = .searching ∨ m = .framing) → m' = m → (m, m') ∈ legalPairs := by
    rintro m m' (rfl | rfl) rfl <;> decide
  cases h with
  | sync m hl => exact hl
  | report m d hl => exact hl
  | accepted hm => exact both (.inl hm) (by simp)
  | discarded hm => exact both (.inl hm) (by simp)
  | first hm => exact both (.inr hm) (by simp)
  | stored hm => exact both hm (by simp)
  | completed ok t hm hn hf h =>
    rcases h.mode_cases with ⟨h1, h2⟩ | ⟨h1, h2⟩ <;>
      (have h1' := h1; simp at h1'; rw [h1']; rcases h2 with h2 | h2 <;> rw [h2] <;> decide)

/-- The transition check passes every class of byte unchanged (R109). -/
theorem ByteEffect.checked {b : Byte} {ts : Timestamp} {s t : State} (h : ByteEffect b ts s t) :
    checkTransition s.mode t = t := by
  rw [checkTransition, if_pos h.legal]

/-- What a `BYTE` event can do. -/
theorem execByte_effect {b : Byte} {ts : Timestamp} {s t : State} (h : execByte b ts s = .next t) :
    s.status = .running ∧ s.offset ≠ BitVec.allOnes Config.offsetBits ∧ ByteEffect b ts s.countByte t := by
  obtain ⟨hr, -, h⟩ := whileRunning_eq_next.mp h
  split at h
  · cases h
  · next ho =>
    refine ⟨hr, ho, ?_⟩
    obtain ⟨u, hu, h⟩ := andThen_eq_next.mp h
    have he := runMatchClass_effect hu
    rcases h with ⟨-, h⟩ | ⟨-, rfl⟩
    · have hc : checkTransition s.countByte.mode u = u := he.checked
      rw [State.countByte_mode] at hc
      rw [hc] at h
      cases h; exact he
    · exact he

/-- A `BYTE` event is the meaning of its byte's class, on the state with the byte counted: the check adds nothing. -/
theorem execByte_eq {b : Byte} {ts : Timestamp} {s : State} (hr : s.status = .running)
    (ho : s.offset ≠ BitVec.allOnes Config.offsetBits) :
    execByte b ts s = runMatchClass (s.countByte.matchClassOf b) b ts s.countByte := by
  rw [execByte, whileRunning_of hr rfl, if_neg ho]
  simp only
  cases hres : runMatchClass (s.countByte.matchClassOf b) b ts s.countByte with
  | next t =>
    have hc := (runMatchClass_effect hres).checked
    rw [State.countByte_mode] at hc
    by_cases ht : t.status = .running
    · rw [andThen_next_running ht, hc]
    · rw [andThen_next_ended ht]
  | fault f => rfl
  | refused r => rfl

/-! ### A step -/

/-- Everything a step can answer `next` with (R3, R120, R190). -/
theorem step_eq_next {s t : State} (h : step s = .next t) :
    (∃ b ts rest, s.input = .event (.byte b ts) :: rest ∧ s.status = .running ∧
      s.offset ≠ BitVec.allOnes Config.offsetBits ∧ ByteEffect b ts (s.takeInput rest).countByte t) ∨
    (∃ rest, s.input = .event .endStream :: rest ∧ s.status = .running ∧
      t = (((s.takeInput rest).log (.summary s.totalValid)).terminate .done (.total s.totalValid))) ∨
    (∃ err rest, s.input = .event (.srcErr err) :: rest ∧ s.status = .running ∧
      t = (s.takeInput rest).terminate .abortedSrc (.err err)) ∨
    (∃ member intermix rest, s.input = .reset member intermix :: rest ∧
      t = (s.takeInput rest).applyReset member intermix) := by
  rw [step, takeAction] at h
  split at h
  · next e rest hi =>
    cases e with
    | byte b ts =>
      obtain ⟨h1, h2, h3⟩ := execByte_effect h
      exact .inl ⟨b, ts, rest, hi, h1, h2, h3⟩
    | endStream =>
      obtain ⟨hr, -, h⟩ := whileRunning_eq_next.mp h
      cases h
      exact .inr (.inl ⟨rest, hi, hr, rfl⟩)
    | srcErr err =>
      obtain ⟨hr, -, h⟩ := whileRunning_eq_next.mp h
      cases h
      exact .inr (.inr (.inl ⟨err, rest, hi, hr, rfl⟩))
  · next member intermix rest hi =>
    cases h
    exact .inr (.inr (.inr ⟨member, intermix, rest, hi, rfl⟩))
  · split at h <;> cases h

end Sys2Proof.Machine
end

