-- ==== Sys2Proof/Laws/PerInstr.lean ====
section
/-! SUPPORT. Per-operation families (LAWS.json): one lemma per constructor of `Instr`. -/

namespace Sys2Proof.Laws.EncodedSize

/-- The encoding is as long as its row's bits and operands: the table's whole bytes and eight bytes for each timestamp,
offset and error value. -/
def size : Instr → Nat
  | .byte _ _ => 9
  | .endStream => 0
  | .srcErr _ => 8
  | .sinkErr _ => 8
  | .syncStart => 1
  | .syncAdvance => 1
  | .syncCompleteS => 1
  | .syncCompleteF => 1
  | .syncAbortS _ => 1
  | .syncDerail _ => 1
  | .noSync _ _ => 9
  | .candAccept _ _ => 9
  | .candDiscard _ _ => 9
  | .frameFirst _ _ => 9
  | .frameByte _ _ => 9
  | .frameComplete => 0
  | .byteCheck _ => 1
  | .frameCheck => 0
  | .searchFrameValid => 0
  | .searchFrameInvalid => 0
  | .frameValid => 0
  | .frameInvalidTolerated => 0
  | .frameInvalidResume => 0
  | .demux => 0
  | .hwIdImm _ _ _ => 34
  | .hwIdDelay _ _ _ => 34
  | .hwIdOrphan _ _ _ => 34
  | .hwData _ _ _ => 34
  | .hwLastId _ _ => 18
  | .hwLastData _ _ => 18
  | .aux _ => 1
  | .send _ _ _ _ => 18

/-- The family's statement about an operation. -/
def Statement (i : Instr) : Prop := (encode i).length = size i

theorem byte (b : Byte) (ts : Timestamp) : Statement (.byte b ts) := rfl
theorem endStream : Statement .endStream := rfl
theorem srcErr (err : ErrValue) : Statement (.srcErr err) := rfl
theorem sinkErr (err : ErrValue) : Statement (.sinkErr err) := rfl
theorem syncStart : Statement .syncStart := rfl
theorem syncAdvance : Statement .syncAdvance := rfl
theorem syncCompleteS : Statement .syncCompleteS := rfl
theorem syncCompleteF : Statement .syncCompleteF := rfl
theorem syncAbortS (b : Byte) : Statement (.syncAbortS b) := rfl
theorem syncDerail (b : Byte) : Statement (.syncDerail b) := rfl
theorem noSync (b : Byte) (ts : Timestamp) : Statement (.noSync b ts) := rfl
theorem candAccept (b : Byte) (ts : Timestamp) : Statement (.candAccept b ts) := rfl
theorem candDiscard (b : Byte) (ts : Timestamp) : Statement (.candDiscard b ts) := rfl
theorem frameFirst (b : Byte) (ts : Timestamp) : Statement (.frameFirst b ts) := rfl
theorem frameByte (b : Byte) (ts : Timestamp) : Statement (.frameByte b ts) := rfl
theorem frameComplete : Statement .frameComplete := rfl
theorem byteCheck (b : Byte) : Statement (.byteCheck b) := rfl
theorem frameCheck : Statement .frameCheck := rfl
theorem searchFrameValid : Statement .searchFrameValid := rfl
theorem searchFrameInvalid : Statement .searchFrameInvalid := rfl
theorem frameValid : Statement .frameValid := rfl
theorem frameInvalidTolerated : Statement .frameInvalidTolerated := rfl
theorem frameInvalidResume : Statement .frameInvalidResume := rfl
theorem demux : Statement .demux := rfl
theorem hwIdImm (k : HalfIndex) (lo hi : Entry) : Statement (.hwIdImm k lo hi) := rfl
theorem hwIdDelay (k : HalfIndex) (lo hi : Entry) : Statement (.hwIdDelay k lo hi) := rfl
theorem hwIdOrphan (k : HalfIndex) (lo hi : Entry) : Statement (.hwIdOrphan k lo hi) := rfl
theorem hwData (k : HalfIndex) (lo hi : Entry) : Statement (.hwData k lo hi) := rfl
theorem hwLastId (lo : Entry) (x : Byte) : Statement (.hwLastId lo x) := rfl
theorem hwLastData (lo : Entry) (x : Byte) : Statement (.hwLastData lo x) := rfl
theorem aux (b : Byte) : Statement (.aux b) := rfl
theorem send (id : ChanId) (datum : Byte) (off : Offset) (ts : Timestamp) : Statement (.send id datum off ts) := rfl

end Sys2Proof.Laws.EncodedSize
end

