-- ==== Sys2Proof/Tests/Slice0.lean ====
section
/-! SUPPORT. The model's own tests. Every expected value is the spec's: the vectors of 95_test_vectors.md (S, I, V, D, E, R)
and the examples in the rules, or words written out from the encodings of 30_encoding.md. -/

namespace Sys2Proof.Tests

open Sys2Proof Sys2Proof.Machine

/-! ### Small states -/

/-- The answer is `next`, and the next state passes. -/
def nextIs (r : Result) (p : State → Bool) : Bool :=
  match r with
  | .next s => p s
  | .fault _ => false
  | .refused _ => false

/-- The decoder reads `i`. -/
def reads (c : Ctx) (w : List Byte) (i : Instr) : Bool :=
  match decode c w with
  | .ok j => j == i
  | .error _ => false

/-- An Entry of offset `off`, with the timestamp the notation gives it. -/
def entry (b : Byte) (off : Nat) : Entry := { byte := b, ts := BitVec.ofNat 64 off, off := BitVec.ofNat 64 off }

/-- The buffer holding `bs`, whose first byte has offset `off`. -/
def bufferOf (off : Nat) (bs : List Byte) : Vector (Option Entry) 16 :=
  Vector.ofFn fun j => (bs[j.val]?).map fun b => entry b (off + j.val)

/-- A block with `member={3}` in this mode, whose next byte has offset `off + 1`. -/
def inMode (m : Mode) (off : Nat) : State :=
  { State.resetWith (memberOf [3]) true with mode := m, offset := BitVec.ofNat 64 off }

/-- A block whose buffer holds the frame `bs`, the first byte at offset 5; a sink that answers `OK`. -/
def withFrame (m : Mode) (members : List ChanId) (intermix : Bool) (cur : Option ChanId) (bs : List Byte) : State :=
  { State.resetWith (memberOf members) intermix with
      mode := m
      buf := bufferOf 5 bs
      n := 16
      curId := cur
      offset := 20
      answers := List.replicate 15 .ok }

/-- The block of `withFrame` with nothing in its buffer: half-words are given to it as operands. -/
def atHalfWord (cur : Option ChanId) (a : AuxVector) : State :=
  { State.resetWith (memberOf [3, 5]) true with
      mode := .framing
      curId := cur
      auxVec := a
      answers := List.replicate 15 .ok }

/-- Frame `G` of 95_test_vectors.md. -/
def frameG : List Byte :=
  [0x07, 0x42, 0x10, 0x11, 0x10, 0x11, 0x10, 0x11, 0x10, 0x11, 0x10, 0x11, 0x10, 0x11, 0x1C, 0x00]

/-- Frame `BAD` of 95_test_vectors.md. -/
def frameBad : List Byte :=
  [0x09, 0x00, 0x10, 0x11, 0x10, 0x11, 0x10, 0x11, 0x10, 0x11, 0x10, 0x11, 0x10, 0x11, 0x1C, 0x00]

/-- The failing frame of vector I6, its only candidate at index 5. -/
def frameI6 : List Byte :=
  [0x07, 0x00, 0x02, 0x04, 0x09, 0x07, 0x06, 0x08, 0x0A, 0x0C, 0x0E, 0x10, 0x12, 0x14, 0x16, 0x00]

/-- The failing frame of vector I5, without a candidate. -/
def frameI5 : List Byte :=
  [0x07, 0x00, 0x00, 0x00, 0x00, 0x00, 0x00, 0x00, 0x09, 0x00, 0x00, 0x00, 0x00, 0x00, 0x00, 0x00]

/-- The frame of vectors V4 and V5: ID 5 at half-word 2. -/
def frameV4 : List Byte :=
  [0x07, 0x42, 0x10, 0x11, 0x0B, 0x55, 0x00, 0x00, 0x00, 0x00, 0x00, 0x00, 0x00, 0x00, 0x1C, 0x00]

/-- The frame of vector V6: ID 3 again at half-word 2. -/
def frameV6 : List Byte :=
  [0x07, 0x42, 0x10, 0x11, 0x07, 0x55, 0x00, 0x00, 0x00, 0x00, 0x00, 0x00, 0x00, 0x00, 0x1C, 0x00]

/-- The frame of vectors V7 and V8: ID 9 at half-word 7. -/
def frameV7 : List Byte :=
  [0x07, 0x42, 0x00, 0x00, 0x00, 0x00, 0x00, 0x00, 0x00, 0x00, 0x00, 0x00, 0x00, 0x00, 0x13, 0x00]

/-- Sixteen zero bytes (vectors V1 and E1). -/
def frameZero : List Byte := List.replicate 16 0x00

/-- The packets delivered, as `(id, datum, off)`. -/
def delivered (s : State) : List (Nat × Nat × Nat) :=
  s.delivered.map fun p => (p.id.toNat, p.datum.toNat, p.off.toNat)

/-! ### WellFormed: one ill-formed term for each check -/

theorem test_wf_no_sync_is_not_FF : (Instr.noSync 0xFF 0).wellFormed = false := by decide
theorem test_wf_candidate_is_not_FF : (Instr.candAccept 0xFF 0).wellFormed = false := by decide
theorem test_wf_candidate_has_control_bit : (Instr.candAccept 0x06 0).wellFormed = false := by decide
theorem test_wf_discarded_is_not_FF : (Instr.candDiscard 0xFF 0).wellFormed = false := by decide
theorem test_wf_first_is_not_FF : (Instr.frameFirst 0xFF 0).wellFormed = false := by decide
theorem test_wf_id_imm_has_control_bit : (Instr.hwIdImm 0 (entry 0x06 5) (entry 0x42 6)).wellFormed = false := by decide
theorem test_wf_id_delay_has_control_bit :
    (Instr.hwIdDelay 0 (entry 0x06 5) (entry 0x42 6)).wellFormed = false := by decide
theorem test_wf_id_orphan_has_control_bit :
    (Instr.hwIdOrphan 0 (entry 0x06 5) (entry 0x42 6)).wellFormed = false := by decide
theorem test_wf_data_has_no_control_bit : (Instr.hwData 0 (entry 0x07 5) (entry 0x42 6)).wellFormed = false := by decide
theorem test_wf_last_id_has_control_bit : (Instr.hwLastId (entry 0x1C 19) 0x00).wellFormed = false := by decide
theorem test_wf_last_data_has_no_control_bit : (Instr.hwLastData (entry 0x0B 19) 0x00).wellFormed = false := by decide
theorem test_wf_accepts : (Instr.candAccept 0x07 0).wellFormed = true := by decide

/-! ### Decoding: a word of every constructor, from its encoding and its row's conditions -/

/-- A 64-bit operand of value 1, as its bytes. -/
def one64 : List Byte := [1, 0, 0, 0, 0, 0, 0, 0]

theorem test_decode_byte : reads (.port .byte) (0x42 :: one64) (.byte 0x42 1) = true := by decide
theorem test_decode_end : reads (.port .endStream) [] .endStream = true := by decide
theorem test_decode_src_err : reads (.port .srcErr) one64 (.srcErr 1) = true := by decide
theorem test_decode_sink_err : reads .sink one64 (.sinkErr 1) = true := by decide
theorem test_decode_sync_start : reads (.matcher .framing 0) [0b11111111] .syncStart = true := by decide
theorem test_decode_sync_advance :
    reads (.matcher (.framingSyncing .one) 0) [0b11111111] .syncAdvance = true := by decide
theorem test_decode_sync_complete_s :
    reads (.matcher (.searchingSyncing .three) 0) [0b01111111] .syncCompleteS = true := by decide
theorem test_decode_sync_complete_f :
    reads (.matcher (.framingSyncing .three) 0) [0b01111111] .syncCompleteF = true := by decide
theorem test_decode_sync_abort_s :
    reads (.matcher (.searchingSyncing .three) 0) [0b11111111] (.syncAbortS 0xFF) = true := by decide
theorem test_decode_sync_derail :
    reads (.matcher (.framingSyncing .one) 0) [0b00000000] (.syncDerail 0x00) = true := by decide
theorem test_decode_no_sync : reads (.matcher .searching 0) (0b00000111 :: one64) (.noSync 0x07 1) = true := by decide
theorem test_decode_frame_byte : reads (.matcher .framing 1) (0b11111111 :: one64) (.frameByte 0xFF 1) = true := by decide
theorem test_decode_cand_accept :
    reads (.driver .searching (memberOf [3])) (0b00000111 :: one64) (.candAccept 0x07 1) = true := by decide
theorem test_decode_cand_discard :
    reads (.driver .searching (memberOf [3])) (0b00001001 :: one64) (.candDiscard 0x09 1) = true := by decide
theorem test_decode_frame_first :
    reads (.driver .framing (memberOf [3])) (0b00000000 :: one64) (.frameFirst 0x00 1) = true := by decide
theorem test_decode_frame_complete : reads .bufferFull [] .frameComplete = true := by decide
theorem test_decode_byte_check : reads .byteValidator [0b00000111] (.byteCheck 0x07) = true := by decide
theorem test_decode_frame_check : reads .frameValidator [] .frameCheck = true := by decide
theorem test_decode_search_frame_valid : reads (.verdict .searching true 0) [] .searchFrameValid = true := by decide
theorem test_decode_search_frame_invalid : reads (.verdict .searching false 7) [] .searchFrameInvalid = true := by decide
theorem test_decode_frame_valid : reads (.verdict .framing true 0) [] .frameValid = true := by decide
theorem test_decode_frame_invalid_tolerated :
    reads (.verdict .framing false 1) [] .frameInvalidTolerated = true := by decide
theorem test_decode_frame_invalid_resume :
    reads (.verdict .framing false 0) [] .frameInvalidResume = true := by decide
theorem test_decode_demux : reads .demuxEntry [] .demux = true := by decide
/-- `AUX8` is `6543210u`: aux bits 0, 1 and 2 (program P3). -/
theorem test_decode_aux : reads .auxByte [0b00001110] (.aux 0x0E) = true := by decide
/-- `HW16` is `aaaaaaaaiiiiiiic`, the low byte first: ID 3 and `42`. -/
theorem test_decode_hw_id_imm :
    reads (.halfWord 0 0 false) ([0b00000111, 0x42] ++ List.replicate 32 0) (.hwIdImm 0 ⟨0x07, 0, 0⟩ ⟨0x42, 0, 0⟩) = true := by
  decide
theorem test_decode_hw_id_delay :
    reads (.halfWord 2 0b0000100 true) ([0b00001011, 0xB0] ++ List.replicate 32 0)
      (.hwIdDelay 2 ⟨0x0B, 0, 0⟩ ⟨0xB0, 0, 0⟩) = true := by decide
theorem test_decode_hw_id_orphan :
    reads (.halfWord 0 1 false) ([0b00000111, 0xA0] ++ List.replicate 32 0)
      (.hwIdOrphan 0 ⟨0x07, 0, 0⟩ ⟨0xA0, 0, 0⟩) = true := by decide
theorem test_decode_hw_data :
    reads (.halfWord 1 0b0000010 true) ([0b00100000, 0x22] ++ List.replicate 32 0)
      (.hwData 1 ⟨0x20, 0, 0⟩ ⟨0x22, 0, 0⟩) = true := by decide
theorem test_decode_hw_last_id :
    reads .lastHalfWord ([0b00001011, 0x0E] ++ List.replicate 16 0) (.hwLastId ⟨0x0B, 0, 0⟩ 0x0E) = true := by decide
theorem test_decode_hw_last_data :
    reads .lastHalfWord ([0b00011100, 0x00] ++ List.replicate 16 0) (.hwLastData ⟨0x1C, 0, 0⟩ 0x00) = true := by decide
theorem test_decode_send :
    reads .nullFilter ([0x03, 0x42] ++ one64 ++ one64) (.send 3 0x42 1 1) = true := by decide
/-- An `id` container above 127 never occurs (R76). -/
theorem test_decode_send_above_127 :
    decode .nullFilter ([0x80, 0x42] ++ one64 ++ one64) = .error .idOutOfRange := by decide
theorem test_decode_truncated : decode (.port .byte) [0x42] = .error .truncated := by decide

/-! ### Table words -/

theorem test_table_word_byte : decodeTableWord 8 0x42 = some (.byte 0x42 0) := by decide
theorem test_table_word_half : decodeTableWord 16 0x4207 = some (.hwIdImm 0 ⟨0x07, 0, 0⟩ ⟨0x42, 0, 0⟩) := by decide
theorem test_table_word_end : decodeTableWord 0 0 = some .endStream := by decide
theorem test_fetch_byte :
    nextIs (step (State.reset.withFetchWord 8 0xFF)) (fun s => s.mode == .searchingSyncing .one) = true := by decide
/-- Half-word 0 of the placed frame is `07 42`: packet `(3, 42)`. -/
theorem test_fetch_half_word :
    nextIs (step (State.reset.withFetchWord 16 0x4207)) (fun s => delivered s == [(3, 0x42, 0)]) = true := by decide

/-! ### One step of every operation -/

/-- R121: the first byte of a run gets offset 1, in its Entry too (I2). -/
theorem test_byte_counts :
    nextIs (step { inMode .searching 0 with input := [.event (.byte 0x07 9)] })
      (fun s => s.offset == 1 && s.memRead 0 == some ⟨0x07, 9, 1⟩) = true := by decide
/-- I13, I16: `term` is `total_valid`, the partial frame stays. -/
theorem test_end_reports :
    nextIs (exec .endStream { inMode .framing 23 with totalValid := 1, n := 3, buf := bufferOf 21 [0x07, 0x42, 0x10] })
      (fun s => s.status == .done && s.term == some (.total 1) && s.n == 3 && s.diagnostics == [.summary 1]) = true := by
  decide
/-- I15: `srcerr 9`; no summary. -/
theorem test_src_err_aborts :
    nextIs (exec (.srcErr 9) (inMode .framing 4))
      (fun s => s.status == .abortedSrc && s.term == some (.err 9) && s.diagnostics == []) = true := by decide
theorem test_sink_err_aborts :
    nextIs (exec (.sinkErr 6) (inMode .framing 20)) (fun s => s.status == .abortedSink && s.term == some (.err 6)) = true := by
  decide
/-- S1. -/
theorem test_sync_start_searching :
    nextIs (exec .syncStart (inMode .searching 1)) (fun s => s.mode == .searchingSyncing .one) = true := by decide
/-- R100's example. -/
theorem test_sync_start_framing :
    nextIs (exec .syncStart (inMode .framing 1)) (fun s => s.mode == .framingSyncing .one) = true := by decide
/-- R101's example. -/
theorem test_sync_advance :
    nextIs (exec .syncAdvance (inMode (.searchingSyncing .two) 3)) (fun s => s.mode == .searchingSyncing .three) = true := by
  decide
/-- S4. -/
theorem test_sync_complete_s :
    nextIs (exec .syncCompleteS (inMode (.searchingSyncing .three) 4))
      (fun s => s.mode == .framing && s.consec == 0 && s.diagnostics == [.syncFound 4]) = true := by decide
/-- S5: no second log. -/
theorem test_sync_complete_f :
    nextIs (exec .syncCompleteF (inMode (.framingSyncing .three) 24))
      (fun s => s.mode == .framing && s.diagnostics == []) = true := by decide
/-- S6: the mismatching `07` is lost. -/
theorem test_sync_abort_loses_the_byte :
    nextIs (exec (.byte 0x07 2) (inMode (.searchingSyncing .one) 1))
      (fun s => s.mode == .searching && s.n == 0 && s.diagnostics == []) = true := by decide
/-- S10: a fourth `FF` aborts. -/
theorem test_sync_abort_fourth_FF :
    nextIs (exec (.syncAbortS 0xFF) (inMode (.searchingSyncing .three) 4)) (fun s => s.mode == .searching) = true := by decide
/-- S9: derailed at `k = 3`. -/
theorem test_sync_derail :
    nextIs (exec (.syncDerail 0x7E) (inMode (.framingSyncing .three) 24))
      (fun s => s.mode == .searching && s.diagnostics == [.framingDerailed 24]) = true := by decide
/-- S11: `7F` is ID 63, a member. -/
theorem test_no_sync_7F_stored :
    nextIs (exec (.noSync 0x7F 5) { inMode .searching 5 with member := memberOf [3, 63] })
      (fun s => s.n == 1 && s.memRead 0 == some (entry 0x7F 5)) = true := by decide
/-- I1: `09` is ID 4, not a member. -/
theorem test_no_sync_09_discarded :
    nextIs (exec (.noSync 0x09 3) (inMode .searching 3)) (fun s => s.n == 0) = true := by decide
/-- I2. -/
theorem test_cand_accept :
    nextIs (exec (.candAccept 0x07 1) (inMode .searching 1)) (fun s => s.memRead 0 == some (entry 0x07 1)) = true := by decide
/-- I1. -/
theorem test_cand_discard :
    nextIs (exec (.candDiscard 0x42 4) (inMode .searching 4)) (fun s => s == inMode .searching 4) = true := by decide
/-- I4: unchecked in `Framing`. -/
theorem test_frame_first :
    nextIs (exec (.frameFirst 0x00 5) (inMode .framing 5)) (fun s => s.n == 1 && s.memRead 0 == some (entry 0x00 5)) = true := by
  decide
/-- S12: `FF` inside a frame is stored. -/
theorem test_frame_byte_stores_FF :
    nextIs (exec (.frameByte 0xFF 6) { inMode .framing 6 with buf := bufferOf 5 [0x07], n := 1 })
      (fun s => s.mode == .framing && s.n == 2 && s.memRead 1 == some (entry 0xFF 6)) = true := by decide
/-- I3: the sixteenth byte of `G` while `Searching`. -/
theorem test_frame_byte_completes :
    nextIs (exec (.frameByte 0x00 20) { withFrame .searching [3] true none (frameG.take 15) with n := 15 })
      (fun s => s.mode == .framing && s.n == 0 && s.consec == 1 && s.totalValid == 1) = true := by decide
/-- I8: `BAD` after a good frame. -/
theorem test_frame_complete_bad :
    nextIs (exec .frameComplete { withFrame .framing [3] true (some 3) frameBad with consec := 1 })
      (fun s => s.mode == .framing && s.totalInvalid == 1 && s.diagnostics == [.invalidFrame 1 5]) = true := by decide
/-- R140: `07` passes. -/
theorem test_byte_check_07 : nextIs (exec (.byteCheck 0x07) (inMode .searching 1)) (fun s => s.verdict == some true) = true := by
  decide
/-- R140: `01` passes only with `MEMBER[0] = 1`. -/
theorem test_byte_check_01 : nextIs (exec (.byteCheck 0x01) (inMode .searching 1)) (fun s => s.verdict == some false) = true := by
  decide
/-- V5 and V6: with `INTERMIX = 0` any non-NULL ID past index 0 is rejected, a repeat too. -/
theorem test_frame_check_no_intermix :
    (nextIs (exec .frameCheck (withFrame .framing [3, 5] false none frameV4)) (fun s => s.verdict == some false) &&
      nextIs (exec .frameCheck (withFrame .framing [3] false none frameV6)) (fun s => s.verdict == some false)) = true := by
  decide
/-- V1, V4 and V7: zeros pass, intermixing passes, `buf[14]` is checked. -/
theorem test_frame_check_intermix :
    (nextIs (exec .frameCheck (withFrame .framing [3] true none frameZero)) (fun s => s.verdict == some true) &&
      nextIs (exec .frameCheck (withFrame .framing [3, 5] true none frameV4)) (fun s => s.verdict == some true) &&
      nextIs (exec .frameCheck (withFrame .framing [3] true none frameV7)) (fun s => s.verdict == some false)) = true := by
  decide
/-- I3: the diagnostic at the frame's offset, `Framing`, `consec = 1`. -/
theorem test_search_frame_valid :
    nextIs (exec .searchFrameValid (withFrame .searching [3] true none frameG))
      (fun s => s.mode == .framing && s.consec == 1 && s.diagnostics == [.validFrame 5]) = true := by decide
/-- I6: candidate at index 5, `n` 11. -/
theorem test_search_frame_invalid_compacts :
    nextIs (exec .searchFrameInvalid (withFrame .searching [3] true none frameI6))
      (fun s => s.n == 11 && s.memRead 0 == some (entry 0x07 10) && s.memRead 10 == some (entry 0x00 20)) = true := by decide
/-- I5: no candidate. -/
theorem test_search_frame_invalid_empties :
    nextIs (exec .searchFrameInvalid (withFrame .searching [3] true none frameI5))
      (fun s => s.n == 0 && s.totalInvalid == 1) = true := by decide
/-- R129: `consec` goes 0 to 1. -/
theorem test_frame_valid :
    nextIs (exec .frameValid (withFrame .framing [3] true none frameG))
      (fun s => s.consec == 1 && s.totalValid == 1 && s.n == 0 && s.curId == some 3) = true := by decide
/-- R130's example. -/
theorem test_frame_invalid_tolerated :
    nextIs (exec .frameInvalidTolerated { withFrame .framing [3] true none frameBad with consec := 1 })
      (fun s => s.consec == 0 && s.mode == .framing && s.diagnostics == [.invalidFrame 1 5]) = true := by decide
/-- I11. -/
theorem test_frame_invalid_resume :
    nextIs (exec .frameInvalidResume (withFrame .framing [3] true none frameBad))
      (fun s => s.mode == .searching && s.diagnostics == [.resumeSearch 5]) = true := by decide
/-- `GP(5)`: the packets of frame `G`. -/
theorem test_demux_G :
    nextIs (exec .demux (withFrame .framing [3] true none frameG)) (fun s => delivered s ==
      [(3, 0x42, 6), (3, 0x10, 7), (3, 0x11, 8), (3, 0x10, 9), (3, 0x11, 10), (3, 0x10, 11), (3, 0x11, 12),
       (3, 0x10, 13), (3, 0x11, 14), (3, 0x10, 15), (3, 0x11, 16), (3, 0x10, 17), (3, 0x11, 18), (3, 0x1C, 19)]) = true := by
  decide
/-- E1: sixteen zeros with no Current Channel ID. -/
theorem test_demux_faults :
    nextIs (exec .demux (withFrame .framing [3] true none frameZero))
      (fun s => s.status == .faultNoCurrentId && s.term == some (.noCurrentId 0 5) && s.n == 16) = true := by decide
/-- R151's example. -/
theorem test_hw_id_imm :
    nextIs (exec (.hwIdImm 0 (entry 0x07 5) (entry 0x42 6)) (atHalfWord none 0))
      (fun s => delivered s == [(3, 0x42, 6)] && s.curId == some 3) = true := by decide
/-- D6: ID 0 gives no packet, and `cur_id` is `Some(0)`. -/
theorem test_hw_id_imm_null :
    nextIs (exec (.hwIdImm 1 (entry 0x01 7) (entry 0x55 8)) (atHalfWord (some 3) 0))
      (fun s => delivered s == [] && s.curId == some 0) = true := by decide
/-- R152's example. -/
theorem test_hw_id_delay :
    nextIs (exec (.hwIdDelay 2 (entry 0x0B 9) (entry 0xB0 10)) (atHalfWord (some 3) 0b0000100))
      (fun s => delivered s == [(3, 0xB0, 10)] && s.curId == some 5) = true := by decide
/-- R153's example. -/
theorem test_hw_id_orphan :
    nextIs (exec (.hwIdOrphan 0 (entry 0x07 5) (entry 0xA0 6)) (atHalfWord none 1))
      (fun s => delivered s == [] && s.orphanCount == 1 && s.diagnostics == [.orphanedByte 6] && s.curId == some 3) = true := by
  decide
/-- R154's example: the aux bit becomes bit 0. -/
theorem test_hw_data :
    nextIs (exec (.hwData 1 (entry 0x20 7) (entry 0x22 8)) (atHalfWord (some 3) 0b0000010))
      (fun s => delivered s == [(3, 0x21, 7), (3, 0x22, 8)]) = true := by decide
/-- E2: the refused packet stops the half-word. -/
theorem test_hw_data_refused :
    nextIs (exec (.hwData 1 (entry 0x10 7) (entry 0x11 8)) { atHalfWord (some 3) 0 with answers := [.ok, .err 1] })
      (fun s => delivered s == [(3, 0x10, 7)] && s.status == .abortedSink) = true := by decide
/-- R155's example. -/
theorem test_hw_last_id :
    nextIs (exec (.hwLastId (entry 0x0B 19) 0x00) (atHalfWord (some 3) 0))
      (fun s => s.curId == some 5 && delivered s == []) = true := by decide
/-- R156's example. -/
theorem test_hw_last_data :
    nextIs (exec (.hwLastData (entry 0x1C 19) 0x00) (atHalfWord (some 3) 0))
      (fun s => delivered s == [(3, 0x1C, 19)] && s.curId == some 3) = true := by decide
/-- P3: the aux byte `0E` gives bits 0, 1 and 2. -/
theorem test_aux : nextIs (exec (.aux 0x0E) (atHalfWord none 0)) (fun s => s.auxVec == 0b0000111) = true := by decide
/-- R157: NULL is dropped, and no answer of the sink is used. -/
theorem test_send_null :
    nextIs (exec (.send 0 0x55 8 8) (atHalfWord none 0)) (fun s => s == atHalfWord none 0) = true := by decide
/-- R157: a datum of `00` under a non-NULL ID is delivered. -/
theorem test_send_zero_datum :
    nextIs (exec (.send 3 0x00 8 8) (atHalfWord none 0)) (fun s => delivered s == [(3, 0x00, 8)]) = true := by decide
/-- R-2: reset in the middle of a frame, with another table. -/
theorem test_reset_mid_frame :
    nextIs (step { withFrame .framing [3] true (some 3) [0x07, 0x42] with
                     n := 2
                     totalValid := 1
                     input := [.reset (memberOf [5]) true]
                     answers := [] })
      (fun s => s == State.resetWith (memberOf [5]) true) = true := by decide
/-- I17: nothing is pulled after the end of the run. -/
theorem test_no_event_after_the_end :
    step { inMode .framing 4 with status := .done, input := [.event (.byte 0x07 0)] } = .refused .runEnded := by rfl
/-- R86: frame `D4` of the vectors, expanded. -/
theorem test_frame_statement :
    (FrameStmt.mk [.id 3 0x42, .data 0x21 0x22, .data 0x10 0x11, .data 0x10 0x11, .data 0x10 0x11, .data 0x10 0x11,
      .data 0x10 0x11] (.lastData 0x1C)).bytes =
      [0x07, 0x42, 0x20, 0x22, 0x10, 0x11, 0x10, 0x11, 0x10, 0x11, 0x10, 0x11, 0x10, 0x11, 0x1C, 0x04] := by decide

/-! ### Witnesses: for every statement with hypotheses, a state and operands that meet them together -/

/-- The Entries of the frame `bs` whose first byte has offset `off`. -/
def frameOf (off : Nat) (bs : List Byte) : Fin 16 → Entry := fun j => entry ((bs[j.val]?).getD 0) (off + j.val)

/-- The state with this `consec`. -/
def withConsec (c : Counter) (s : State) : State := { s with consec := c }

/-- The state with these answers of the sink. -/
def withAnswers (as : List SinkAnswer) (s : State) : State := { s with answers := as }

/-- Frame `G` with 15 of its bytes collected, the first at offset 5, while `Searching`; one packet delivered earlier. -/
def almostG : State :=
  { withFrame .searching [3] true (some 3) (frameG.take 15) with
      n := 15
      offset := 19
      out := [.packet { id := 3, datum := 0x42, off := 2, ts := 2 }] }

/-- A `G` frame, valid with `member={3}`, for each mode and each `cur_id`. -/
abbrev goodFrame (m : Mode) (cur : Option ChanId) : State := withFrame m [3] true cur frameG

/-- A `BAD` frame, invalid with `member={3}`. -/
abbrev badFrame (m : Mode) (c : Counter) : State := withConsec c (withFrame m [3] true none frameBad)

theorem witness_holdsFrame_good (m : Mode) (cur : Option ChanId) : (goodFrame m cur).holdsFrame (frameOf 5 frameG) := by
  refine ⟨rfl, fun j => ?_⟩
  have h : ∀ j : Fin 16, (goodFrame .searching none).memRead j.val = some (frameOf 5 frameG j) := by decide
  exact h j

theorem witness_holdsFrame_bad (m : Mode) (c : Counter) : (badFrame m c).holdsFrame (frameOf 5 frameBad) := by
  refine ⟨rfl, fun j => ?_⟩
  have h : ∀ j : Fin 16, (badFrame .searching 0).memRead j.val = some (frameOf 5 frameBad j) := by decide
  exact h j

theorem witness_framePasses_good (m : Mode) (cur : Option ChanId) : framePasses (goodFrame m cur) (frameOf 5 frameG) := by
  have h : ∀ i : Fin 8, (frameOf 5 frameG ⟨2 * i.val, by omega⟩).byte.getLsbD 0 = true →
      (frameOf 5 frameG ⟨2 * i.val, by omega⟩).byte.toNat / 2 = 0 ∨
        ((memberOf [3]).getLsbD ((frameOf 5 frameG ⟨2 * i.val, by omega⟩).byte.toNat / 2) = true ∧
          (true = true ∨ i.val = 0)) := by decide
  exact h

theorem witness_framePasses_bad (m : Mode) (c : Counter) : ¬ framePasses (badFrame m c) (frameOf 5 frameBad) := by
  intro h
  have h0 : ¬ ((frameOf 5 frameBad 0).byte.toNat / 2 = 0 ∨
      ((memberOf [3]).getLsbD ((frameOf 5 frameBad 0).byte.toNat / 2) = true ∧ (true = true ∨ (0 : Fin 8).val = 0))) := by
    decide
  exact h0 (h 0 (by decide))

theorem witness_channelKnown_some (m : Mode) : channelKnown (goodFrame m (some 3)) (frameOf 5 frameG) := .inl rfl
theorem witness_channelKnown_first (m : Mode) : channelKnown (goodFrame m none) (frameOf 5 frameG) := .inr (by decide)
theorem witness_sinkAccepts (m : Mode) (cur : Option ChanId) : (goodFrame m cur).sinkAccepts 15 := ⟨[], rfl⟩

/-- `almostG` meets the invariant, with `n = 15`. -/
theorem witness_inv : almostG.Inv where
  fill _ := by decide
  syncing h := absurd h (by decide)
  candidate _ e h := by
    obtain rfl : entry 0x07 5 = e := Option.some.inj h
    decide
  written := by
    have h : ∀ j : Fin 15, (almostG.memRead j.val).isSome = true := by decide
    exact fun j hj => h ⟨j, hj⟩
  rising j e e' h h' := by
    have hlt : j + 1 < almostG.n.val := memRead_lt h'
    have key : ∀ j : Fin 14, ((almostG.memRead j.val).bind fun e => (almostG.memRead (j.val + 1)).map fun e' =>
        decide (e.off < e'.off)) = some true := by decide
    have hj : j + 1 < 15 := hlt
    have k := key ⟨j, by omega⟩
    simpa [h, h'] using k
  counted j e h := by
    have hlt : j < almostG.n.val := memRead_lt h
    have key : ∀ j : Fin 15, ((almostG.memRead j.val).map fun e => decide (e.off ≤ almostG.offset)) = some true := by decide
    have k := key ⟨j, hlt⟩
    simpa [h] using k
  silent h := absurd h (by decide)
  termed := rfl
  legal := by decide
  ordered := by decide
  older _ p hp := by
    have hd : almostG.delivered = [{ id := 3, datum := 0x42, off := 2, ts := 2 }] := by decide
    rw [hd] at hp
    obtain rfl : p = { id := 3, datum := 0x42, off := 2, ts := 2 } := by simpa using hp
    refine ⟨by decide, fun j e h => ?_⟩
    have hlt : j < almostG.n.val := memRead_lt h
    have key : ∀ j : Fin 15, ((almostG.memRead j.val).map fun e => decide ((2 : Offset) < e.off)) = some true := by decide
    have k := key ⟨j, hlt⟩
    simpa [h] using k

theorem witness_EncodedOperationsDecodeBack :
    (Instr.hwIdDelay 2 (entry 0x0B 9) (entry 0xB0 10)).wellFormed = true ∧
    (Instr.hwIdDelay 2 (entry 0x0B 9) (entry 0xB0 10)).admits (.halfWord 2 0b0000100 true) = true := by decide

theorem witness_DecodedBytesAreTheEncoding : decode (.matcher .searching 0) [0xFF, 0x00] = .ok .syncStart := by decide

theorem witness_InputBytesAreClassedByTheTable :
    (((Mode.searching).syncing = true → 15 = 0) ∧ 15 ≤ 15) ∧
    ((Mode.framingSyncing .three).syncing = true → 0 = 0) := by decide

theorem witness_StepRunsTheEventAtThePort :
    (State.reset.withEvent (.byte 0x07 1)).input = .event (.byte 0x07 1) :: [] := rfl

theorem witness_ByteEventRunsTheClassItDecodesTo :
    (inMode .framing (2 ^ 64 - 2)).status = .running ∧ (inMode .framing (2 ^ 64 - 2)).offset.toNat < 2 ^ 64 - 1 ∧
    decode (.matcher .framing (inMode .framing (2 ^ 64 - 2)).n.val) (0x07 :: word64Bytes 1) = .ok (.noSync 0x07 1) := by
  decide

/-- One witness for each clause: the five rows of R126. -/
theorem witness_CompletedFrameRunsTheRowItIs :
    ((goodFrame .searching none).holdsFrame (frameOf 5 frameG) ∧ framePasses (goodFrame .searching none) (frameOf 5 frameG)) ∧
    ((badFrame .searching 0).holdsFrame (frameOf 5 frameBad) ∧ ¬ framePasses (badFrame .searching 0) (frameOf 5 frameBad)) ∧
    ((goodFrame .framing none).holdsFrame (frameOf 5 frameG) ∧ framePasses (goodFrame .framing none) (frameOf 5 frameG)) ∧
    ((badFrame .framing 1).holdsFrame (frameOf 5 frameBad) ∧ ¬ framePasses (badFrame .framing 1) (frameOf 5 frameBad) ∧
      (badFrame .framing 1).consec ≠ 0) ∧
    ((badFrame .framing 0).holdsFrame (frameOf 5 frameBad) ∧ ¬ framePasses (badFrame .framing 0) (frameOf 5 frameBad) ∧
      (badFrame .framing 0).consec = 0) :=
  ⟨⟨witness_holdsFrame_good _ _, witness_framePasses_good _ _⟩, ⟨witness_holdsFrame_bad _ _, witness_framePasses_bad _ _⟩,
    ⟨witness_holdsFrame_good _ _, witness_framePasses_good _ _⟩,
    ⟨witness_holdsFrame_bad _ _, witness_framePasses_bad _ _, by decide⟩,
    ⟨witness_holdsFrame_bad _ _, witness_framePasses_bad _ _, by decide⟩⟩

theorem witness_DemuxWalksTheHalfWordsInOrder :
    (goodFrame .framing none).status = .running ∧ (goodFrame .framing none).holdsFrame (frameOf 5 frameG) :=
  ⟨rfl, witness_holdsFrame_good _ _⟩

theorem witness_SyncStartBeginsAMatch :
    ((inMode .searching 1).status = .running ∧ (inMode .searching 1).n = 0 ∧ (inMode .searching 1).mode = .searching) ∧
    ((inMode .framing 1).status = .running ∧ (inMode .framing 1).n = 0 ∧ (inMode .framing 1).mode = .framing) := by decide

theorem witness_SyncAdvanceKeepsTheFamily :
    ∀ m ∈ [Mode.searchingSyncing .one, .searchingSyncing .two, .framingSyncing .one, .framingSyncing .two],
      (inMode m 2).status = .running ∧ (inMode m 2).mode = m := by decide

theorem witness_SyncCompletionFrames :
    ∀ m ∈ [Mode.searchingSyncing .three, .framingSyncing .three],
      (inMode m 4).status = .running ∧ (inMode m 4).mode = m := by decide

theorem witness_SyncMismatchReturnsToSearching :
    (∀ m ∈ [Mode.searchingSyncing .one, .searchingSyncing .two, .framingSyncing .one, .framingSyncing .two],
      (inMode m 4).status = .running ∧ (inMode m 4).mode = m ∧ (0x7F : Byte) ≠ 0xFF) ∧
    (∀ m ∈ [Mode.searchingSyncing .three, .framingSyncing .three],
      (inMode m 4).status = .running ∧ (inMode m 4).mode = m ∧ (0xFF : Byte) ≠ 0x7F) := by decide

/-- A start, an advance, both completions, both mismatches, and both ways of being handed on. -/
theorem witness_ByteEventsFollowTheMatcherFunction :
    (inMode .searching 0).status = .running ∧ (inMode .searching 0).offset.toNat < 2 ^ 64 - 1 ∧
    syncStep 0 0 0xFF 1 = some (1, []) ∧ syncStep 5 0 0xFF 2 = some (6, []) ∧
    syncStep 3 0 0x7F 4 = some (4, [.syncFound 4]) ∧ syncStep 7 0 0x7F 4 = some (4, []) ∧
    syncStep 1 0 0x7F 2 = some (0, []) ∧ syncStep 7 0 0xFF 4 = some (0, [.framingDerailed 4]) ∧
    syncStep 0 0 0x07 1 = none ∧ syncStep 4 1 0xFF 6 = none := by decide

theorem witness_OnlyLegalTransitionsHappen :
    (∃ t, exec (Event.byte 0xFF 1).instr (inMode .searching 0) = .next t) ∧ (Event.byte 0xFF 1).kind = .byte ∧
    (∃ t, exec Event.endStream.instr (inMode .searching 0) = .next t) ∧ Event.endStream.kind ≠ .byte :=
  ⟨⟨_, rfl⟩, rfl, ⟨_, rfl⟩, by decide⟩

theorem witness_CandidatesAreStoredOrDiscarded :
    (inMode .searching 1).status = .running ∧ (inMode .searching 1).mode = .searching ∧ (inMode .searching 1).n = 0 ∧
    ((0x07 : Byte) ≠ 0xFF ∧ plausible (inMode .searching 1).member 0x07) ∧
    ((0x09 : Byte) ≠ 0xFF ∧ ¬ plausible (inMode .searching 1).member 0x09) := by
  unfold plausible
  decide

theorem witness_FirstFrameByteIsStoredUnchecked :
    (inMode .framing 5).status = .running ∧ (inMode .framing 5).mode = .framing ∧ (inMode .framing 5).n = 0 ∧
    (0x00 : Byte) ≠ 0xFF := by decide

theorem witness_NoSyncHandsTheByteToTheDriver :
    ((inMode .searching 1).status = .running ∧ (inMode .searching 1).n = 0 ∧ (inMode .searching 1).mode = .searching ∧
      plausible (inMode .searching 1).member 0x07 ∧ ¬ plausible (inMode .searching 1).member 0xFE) ∧
    ((inMode .framing 5).status = .running ∧ (inMode .framing 5).n = 0 ∧ (inMode .framing 5).mode = .framing) ∧
    (0x07 : Byte) ≠ 0xFF ∧ (0xFE : Byte) ≠ 0xFF := by
  unfold plausible
  decide

/-- `n` at 1, at 14 and at 15. -/
theorem witness_FrameByteIsStoredWhateverItsValue :
    (∀ n ∈ [(1, 2), (14, 15)], ∃ s : State, s.status = .running ∧ s.mode = .framing ∧ s.n.val = n.1 ∧ 1 ≤ s.n.val ∧
      s.n.val < 15 ∧ n.2 = s.n.val + 1) ∧
    (∃ s : State, s.status = .running ∧ s.mode = .searching ∧ s.n.val = 15) := by
  refine ⟨fun n hn => ?_, almostG, by decide⟩
  rcases (by simpa using hn : n = (1, 2) ∨ n = (14, 15)) with rfl | rfl
  · exact ⟨{ inMode .framing 5 with n := 1 }, by decide⟩
  · exact ⟨{ inMode .framing 18 with n := 14 }, by decide⟩

/-- Two bytes that fill the buffer to its fifteenth entry. -/
theorem witness_ArrivingBytesBecomeTheNextEntries :
    ∃ s : State, s.status = .running ∧ s.mode = .framing ∧ 1 ≤ s.n.val ∧ s.n.val + 2 = 15 ∧ s.offset.toNat + 2 < 2 ^ 64 ∧
      s.input = [((0xFF : Byte), (1 : Timestamp)), (0x7F, 2)].map (fun p => HostAction.event (.byte p.1 p.2)) ++ [] :=
  ⟨{ inMode .framing 17 with n := 13, input := [.event (.byte 0xFF 1), .event (.byte 0x7F 2)] }, by decide⟩

theorem witness_ByteCheckAsksControlBitAndMembership :
    (inMode .searching 1).status = .running ∧ plausible (inMode .searching 1).member 0x07 ∧
    ¬ plausible (inMode .searching 1).member 0x06 := by
  unfold plausible
  decide

theorem witness_FrameCheckRejectsExactlyTheViolations :
    ((goodFrame .framing none).status = .running ∧ (goodFrame .framing none).holdsFrame (frameOf 5 frameG) ∧
      framePasses (goodFrame .framing none) (frameOf 5 frameG)) ∧
    ((badFrame .framing 0).status = .running ∧ (badFrame .framing 0).holdsFrame (frameOf 5 frameBad) ∧
      ¬ framePasses (badFrame .framing 0) (frameOf 5 frameBad)) :=
  ⟨⟨rfl, witness_holdsFrame_good _ _, witness_framePasses_good _ _⟩,
    ⟨rfl, witness_holdsFrame_bad _ _, witness_framePasses_bad _ _⟩⟩

theorem witness_FrameCheckReadsOnlyLowBytes :
    (goodFrame .framing none).holdsFrame (frameOf 5 frameG) ∧
    (goodFrame .searching (some 3)).holdsFrame (frameOf 5 frameG) ∧
    (goodFrame .framing none).intermix = (goodFrame .searching (some 3)).intermix ∧
    (∃ t, exec .frameCheck (goodFrame .framing none) = .next t) ∧
    (∃ t, exec .frameCheck (goodFrame .searching (some 3)) = .next t) :=
  ⟨witness_holdsFrame_good _ _, witness_holdsFrame_good _ _, rfl, ⟨_, rfl⟩, ⟨_, rfl⟩⟩

/-- The demultiplexer runs to the end, and is stopped by the sink (E3). -/
theorem witness_ValidFrameWhileSearchingFrames :
    (goodFrame .searching none).status = .running ∧ (goodFrame .searching none).mode = .searching ∧
    (goodFrame .searching none).holdsFrame (frameOf 5 frameG) ∧ framePasses (goodFrame .searching none) (frameOf 5 frameG) ∧
    channelKnown (goodFrame .searching none) (frameOf 5 frameG) ∧ (goodFrame .searching none).sinkAccepts 15 ∧
    nextIs (exec .demux (goodFrame .searching none)) (fun u => u.status == .running) = true ∧
    nextIs (exec .demux (withAnswers [.err 1] (goodFrame .searching none))) (fun u => u.status != .running) = true :=
  ⟨rfl, rfl, witness_holdsFrame_good _ _, witness_framePasses_good _ _, witness_channelKnown_first _,
    witness_sinkAccepts _ _, by decide, by decide⟩

theorem witness_ValidFrameWhileFramingStaysFramed :
    (goodFrame .framing (some 3)).status = .running ∧ (goodFrame .framing (some 3)).mode = .framing ∧
    (goodFrame .framing (some 3)).holdsFrame (frameOf 5 frameG) ∧ framePasses (goodFrame .framing (some 3)) (frameOf 5 frameG) ∧
    channelKnown (goodFrame .framing (some 3)) (frameOf 5 frameG) ∧ (goodFrame .framing (some 3)).sinkAccepts 15 ∧
    nextIs (exec .demux (goodFrame .framing (some 3))) (fun u => u.status == .running) = true ∧
    nextIs (exec .demux (withAnswers [.ok, .err 1] (goodFrame .framing (some 3)))) (fun u => u.status != .running) = true :=
  ⟨rfl, rfl, witness_holdsFrame_good _ _, witness_framePasses_good _ _, witness_channelKnown_some _,
    witness_sinkAccepts _ _, by decide, by decide⟩

/-- Vector I7's frame: its first candidate is at index 15. -/
def frameI7 : List Byte := frameI5.take 15 ++ [0x07]

/-- A candidate at index 1, at index 15 (I7), and none (I5). -/
theorem witness_FailedFrameWhileSearchingIsRescanned :
    (plausible (memberOf [3]) (frameOf 5 (0x07 :: 0x07 :: frameBad.take 14) 1).byte) ∧
    (plausible (memberOf [3]) (frameOf 5 frameI7 15).byte ∧
      ∀ k : Fin 16, 1 ≤ k.val → k.val < 15 → ¬ plausible (memberOf [3]) (frameOf 5 frameI7 k).byte) ∧
    (∀ k : Fin 16, 1 ≤ k.val → ¬ plausible (memberOf [3]) (frameOf 5 frameI5 k).byte) ∧
    ((badFrame .searching 0).status = .running ∧ (badFrame .searching 0).mode = .searching ∧
      (badFrame .searching 0).holdsFrame (frameOf 5 frameBad) ∧ ¬ framePasses (badFrame .searching 0) (frameOf 5 frameBad) ∧
      ∀ k : Fin 16, 1 ≤ k.val → ¬ plausible (badFrame .searching 0).member (frameOf 5 frameBad k).byte) := by
  refine ⟨?_, ?_, ?_, rfl, rfl, witness_holdsFrame_bad _ _, witness_framePasses_bad _ _, ?_⟩ <;> unfold plausible <;> decide

theorem witness_BadFrameAfterGoodIsTolerated :
    (badFrame .framing 1).status = .running ∧ (badFrame .framing 1).mode = .framing ∧
    (badFrame .framing 1).holdsFrame (frameOf 5 frameBad) ∧ ¬ framePasses (badFrame .framing 1) (frameOf 5 frameBad) ∧
    (badFrame .framing 1).consec ≠ 0 :=
  ⟨rfl, rfl, witness_holdsFrame_bad _ _, witness_framePasses_bad _ _, by decide⟩

theorem witness_SecondBadFrameResumesSearch :
    (badFrame .framing 0).status = .running ∧ (badFrame .framing 0).mode = .framing ∧
    (badFrame .framing 0).holdsFrame (frameOf 5 frameBad) ∧ ¬ framePasses (badFrame .framing 0) (frameOf 5 frameBad) ∧
    (badFrame .framing 0).consec = 0 :=
  ⟨rfl, rfl, witness_holdsFrame_bad _ _, witness_framePasses_bad _ _, rfl⟩

theorem witness_CompletedFrameIsDealtWithAtOnce :
    ((goodFrame .searching none).status = .running ∧ (goodFrame .searching none).holdsFrame (frameOf 5 frameG) ∧
      channelKnown (goodFrame .searching none) (frameOf 5 frameG) ∧ (goodFrame .searching none).sinkAccepts 15 ∧
      framePasses (goodFrame .searching none) (frameOf 5 frameG)) ∧
    ((badFrame .framing 1).status = .running ∧ (badFrame .framing 1).holdsFrame (frameOf 5 frameBad) ∧
      channelKnown (badFrame .framing 1) (frameOf 5 frameBad) ∧ (badFrame .framing 1).sinkAccepts 15 ∧
      ¬ framePasses (badFrame .framing 1) (frameOf 5 frameBad)) :=
  ⟨⟨rfl, witness_holdsFrame_good _ _, witness_channelKnown_first _, witness_sinkAccepts _ _, witness_framePasses_good _ _⟩,
    ⟨rfl, witness_holdsFrame_bad _ _, .inr (by decide), ⟨[], rfl⟩, witness_framePasses_bad _ _⟩⟩

theorem witness_AuxByteGivesOneBitPerHalfWord : (atHalfWord none 0).status = .running := rfl

/-- A NULL packet, one that the sink takes, one that it refuses. -/
theorem witness_UndelayedIdTagsItsByteWithTheNewId :
    (atHalfWord none 0).status = .running ∧ (atHalfWord none 0).auxVec.getLsbD 6 = false ∧
    ((0x01 : Byte).getLsbD 0 = true ∧ acceptsNext (withAnswers [] (atHalfWord none 0)) ((0x01 : Byte).extractLsb' 1 7)) ∧
    ((0x07 : Byte).getLsbD 0 = true ∧ acceptsNext (atHalfWord none 0) ((0x07 : Byte).extractLsb' 1 7)) ∧
    ((0x07 : Byte).extractLsb' 1 7 ≠ 0 ∧ (withAnswers [.err 1] (atHalfWord none 0)).answers.head? = some (.err 1)) := by
  unfold acceptsNext
  decide

theorem witness_DelayedIdTagsItsByteWithTheOldId :
    (atHalfWord (some 3) 0b1000000).status = .running ∧ (0x0B : Byte).getLsbD 0 = true ∧
    (atHalfWord (some 3) 0b1000000).auxVec.getLsbD 6 = true ∧ (atHalfWord (some 3) 0b1000000).curId = some 3 ∧
    acceptsNext (atHalfWord (some 3) 0b1000000) 3 ∧ acceptsNext (withAnswers [] (atHalfWord (some 0) 0b1000000)) 0 ∧
    ((3 : ChanId) ≠ 0 ∧ (withAnswers [.err 1] (atHalfWord (some 3) 0b1000000)).answers.head? = some (.err 1)) := by
  unfold acceptsNext
  decide

theorem witness_OrphanedByteIsDroppedAndCounted :
    (atHalfWord none 1).status = .running ∧ (0x07 : Byte).getLsbD 0 = true ∧ (atHalfWord none 1).auxVec.getLsbD 0 = true ∧
    (atHalfWord none 1).curId = none := by decide

/-- No ID, two packets taken, the first refused, the second refused. -/
theorem witness_DataHalfWordGivesTwoPacketsOrFaults :
    (atHalfWord (some 3) 2).status = .running ∧ (0x20 : Byte).getLsbD 0 = false ∧ (atHalfWord none 2).curId = none ∧
    ((atHalfWord (some 3) 2).curId = some 3 ∧ (atHalfWord (some 3) 2).sinkAccepts 2) ∧
    ((3 : ChanId) ≠ 0 ∧ (withAnswers [.err 1] (atHalfWord (some 3) 2)).answers.head? = some (.err 1)) ∧
    (withAnswers [.ok, .err 1] (atHalfWord (some 3) 2)).answers = .ok :: .err 1 :: [] :=
  ⟨rfl, by decide, rfl, ⟨rfl, List.replicate 13 .ok, rfl⟩, by decide, rfl⟩

theorem witness_LastIdIsAnnouncedWithoutAPacket :
    (atHalfWord (some 3) 0).status = .running ∧ (0x0B : Byte).getLsbD 0 = true := by decide

/-- No ID, a packet taken, a packet refused. -/
theorem witness_LastDataGivesOnePacketOrFaults :
    (atHalfWord (some 3) 0).status = .running ∧ (0x1C : Byte).getLsbD 0 = false ∧ (atHalfWord none 0).curId = none ∧
    ((atHalfWord (some 3) 0).curId = some 3 ∧ acceptsNext (atHalfWord (some 3) 0) 3) ∧
    ((3 : ChanId) ≠ 0 ∧ (withAnswers [.err 1] (atHalfWord (some 3) 0)).answers.head? = some (.err 1)) := by
  unfold acceptsNext
  decide

/-- A NULL packet, a taken one, a refused one, one without an answer. -/
theorem witness_SendFiltersNullAndOffersTheRest :
    (atHalfWord none 0).status = .running ∧ acceptsNext (withAnswers [] (atHalfWord none 0)) 0 ∧
    acceptsNext (atHalfWord none 0) 3 ∧
    ((3 : ChanId) ≠ 0 ∧ (withAnswers [.err 1] (atHalfWord none 0)).answers.head? = some (.err 1)) ∧
    (withAnswers [] (atHalfWord none 0)).answers = [] := by
  unfold acceptsNext
  decide

theorem witness_DemuxRunsToTheEndOfTheFrame :
    (goodFrame .framing none).status = .running ∧ (goodFrame .framing none).holdsFrame (frameOf 5 frameG) ∧
    channelKnown (goodFrame .framing none) (frameOf 5 frameG) ∧ (goodFrame .framing none).sinkAccepts 15 :=
  ⟨rfl, witness_holdsFrame_good _ _, witness_channelKnown_first _, witness_sinkAccepts _ _⟩

theorem witness_PacketsOfAFrameRiseInOffset :
    (goodFrame .framing none).holdsFrame (frameOf 5 frameG) ∧
    (∀ j k : Fin 16, j.val < k.val → (frameOf 5 frameG j).off < (frameOf 5 frameG k).off) ∧
    ∃ t, exec .demux (goodFrame .framing none) = .next t := ⟨witness_holdsFrame_good _ _, by decide, _, rfl⟩

/-- Frame `G` as the statement that builds it. -/
def stmtG : FrameStmt :=
  { halves := .id 3 0x42 :: List.replicate 6 (.data 0x10 0x11)
    last := .lastData 0x1C }

theorem witness_BuiltFramesDemultiplexToWhatWasWritten :
    (goodFrame .framing none).status = .running ∧ (goodFrame .framing none).holdsFrame (frameOf 5 frameG) ∧
    stmtG.valid = true ∧ (∀ h ∈ stmtG.halves, ∀ id d, h ≠ .idd id d) ∧ (∃ id d hs, stmtG.halves = .id id d :: hs) ∧
    (List.ofFn fun j => (frameOf 5 frameG j).byte) = stmtG.bytes ∧ (goodFrame .framing none).sinkAccepts 15 := by
  refine ⟨rfl, witness_holdsFrame_good _ _, by decide, ?_, ⟨3, 0x42, _, rfl⟩, by decide, witness_sinkAccepts _ _⟩
  intro h hh id d heq
  subst heq
  simp [stmtG] at hh

theorem witness_EveryByteIsCountedOnce :
    (∃ t, exec (.byte 0x00 1) almostG = .next t) ∧ (∃ t, exec .endStream almostG = .next t) ∧
    (∃ t, exec (.srcErr 1) almostG = .next t) := ⟨⟨_, rfl⟩, ⟨_, rfl⟩, ⟨_, rfl⟩⟩

/-- At the sixteenth byte of a frame. -/
theorem witness_ByteEventIsProcessedCompletely :
    almostG.Inv ∧ almostG.status = .running ∧ almostG.offset.toNat < 2 ^ 64 - 1 ∧ almostG.curId.isSome = true ∧
    almostG.sinkAccepts 15 := ⟨witness_inv, rfl, by decide, rfl, [], rfl⟩

theorem witness_PacketsComeOnlyWithTheSixteenthByte :
    (∃ t, exec (.byte 0x00 20) almostG = .next t) ∧ almostG.n.val = 15 ∧
    (∃ t, exec (.byte 0x00 1) (inMode .framing 0) = .next t) ∧ (inMode .framing 0).n.val ≠ 15 :=
  ⟨⟨_, rfl⟩, rfl, ⟨_, rfl⟩, by decide⟩

theorem witness_CurrentIdIsOnlyEverReplaced :
    (∃ t, exec (.byte 0x00 20) almostG = .next t) ∧ almostG.curId.isSome = true ∧
    (∃ t, exec (.byte 0x00 1) (inMode .framing 0) = .next t) ∧ (inMode .framing 0).n.val ≠ 15 :=
  ⟨⟨_, rfl⟩, rfl, ⟨_, rfl⟩, by decide⟩

theorem witness_ConsecutiveCountHasFourWrites : ∃ t, exec (.byte 0x00 20) almostG = .next t := ⟨_, rfl⟩

/-- The sink refuses the first packet of the frame (E3). -/
theorem witness_StoppedEventFreezesTheBlock :
    nextIs (exec (.byte 0x00 20) (withAnswers [.err 1] almostG)) (fun t => t.status != .running) = true := by decide

/-- Vector E1. -/
theorem witness_FirstFrameAfterSyncMustStartWithAnId :
    (withFrame .framing [3] true none frameZero).status = .running ∧
    (withFrame .framing [3] true none frameZero).mode = .framing ∧
    (withFrame .framing [3] true none frameZero).holdsFrame (frameOf 5 frameZero) ∧
    framePasses (withFrame .framing [3] true none frameZero) (frameOf 5 frameZero) ∧
    (withFrame .framing [3] true none frameZero).curId = none ∧ (frameOf 5 frameZero 0).byte.getLsbD 0 = false := by
  refine ⟨rfl, rfl, ⟨rfl, ?_⟩, ?_, rfl, by decide⟩
  · decide
  · unfold framePasses
    decide

theorem witness_SearchingNeverFaultsForLackOfAnId :
    almostG.Inv ∧ almostG.mode = .searching ∧ ∃ t, exec (.byte 0x00 20) almostG = .next t := ⟨witness_inv, rfl, _, rfl⟩

theorem witness_EndReportsTheValidFrames : (inMode .framing 20).status = .running := rfl
theorem witness_SourceFailureAbortsTheRun : (inMode .framing 4).status = .running := rfl

theorem witness_TooLongARunIsRefused :
    (inMode .framing (2 ^ 64 - 1)).status = .running ∧ (inMode .framing (2 ^ 64 - 1)).offset.toNat = 2 ^ 64 - 1 := by decide

theorem witness_TerminalStatusTakesNoEvent :
    (∃ s : State, s.status ≠ .running ∧ s.input = []) ∧
    (∃ s : State, s.status ≠ .running ∧ s.input = .event .endStream :: []) ∧
    (∃ s : State, s.status = .running ∧ s.input = []) :=
  ⟨⟨{ inMode .framing 4 with status := .faultNoCurrentId }, by decide⟩,
    ⟨{ inMode .framing 4 with status := .done, input := [.event .endStream] }, by decide⟩, ⟨State.reset, by decide⟩⟩

theorem witness_ResetStartsANewRunFromAnyState :
    ∃ s : State, s.status = .abortedSink ∧ s.n.val = 16 ∧ s.input = .reset 8 false :: [] :=
  ⟨{ goodFrame .framing (some 3) with status := .abortedSink, input := [.reset 8 false] }, by decide⟩

theorem witness_EveryStepKeepsTheInvariant :
    { almostG with input := [.event (.byte 0x00 20)] }.Inv ∧
    ∃ t, step { almostG with input := [.event (.byte 0x00 20)] } = .next t := ⟨{ witness_inv with }, _, rfl⟩

theorem witness_NoStepReadsAnUnwrittenEntry : almostG.Inv := witness_inv

theorem witness_ConfigurationIsLatchedForTheRun :
    (State.reset.withEvent (.byte 0x07 1)).input = .event (.byte 0x07 1) :: [] ∧
    (∃ t, step (State.reset.withEvent (.byte 0x07 1)) = .next t) ∧
    ∃ s t : State, s.input = .reset 8 false :: [] ∧ step s = .next t :=
  ⟨rfl, ⟨_, rfl⟩, { inMode .framing 7 with input := [.reset 8 false] }, _, rfl, rfl⟩

end Sys2Proof.Tests
end

section
/-! PROOFS. The scope of a run (00_scope.md): how many bytes one run may hold. -/

namespace Sys2Proof.Machine

theorem exec_byte (b : Byte) (ts : Timestamp) (s : State) : exec (.byte b ts) s = execByte b ts s := rfl

/-- R11: the limit of a run's length, as a number and as the word the model compares with. -/
theorem offset_eq_allOnes_iff (o : Offset) : o = BitVec.allOnes Config.offsetBits ↔ o.toNat = 2 ^ 64 - 1 := by
  rw [BitVec.toNat_eq, BitVec.toNat_allOnes]

/-- I7: a running block whose offset cannot be counted further refuses the byte, whatever its mode. -/
theorem execByte_at_offset_limit {s : State} (b : Byte) (ts : Timestamp) (hr : s.status = .running)
    (ho : s.offset = BitVec.allOnes Config.offsetBits) : execByte b ts s = .refused .runTooLong := by
  rw [execByte, whileRunning_running hr, if_pos ho]

/-- Settles O51: the refusal at the offset limit comes before the byte is counted or classed. -/
theorem tooLongARunIsRefused : Obligations.TooLongARunIsRefused := by
  intro s b ts hr ho
  rw [exec_byte]
  exact execByte_at_offset_limit b ts hr ((offset_eq_allOnes_iff s.offset).mpr ho)

end Sys2Proof.Machine
end

section
/-! PROOFS. The invariant of R44 and what carries it through an event. `Inv` is taken apart into what holds of the frame
buffer (`Held`), what holds of the outputs (`Emitted`) and what ties the two (`Fresh`), because an event writes them at
different moments: inside a `BYTE` event the buffer is full and the packets of its frame are out while its entries still
stand. -/

namespace Sys2Proof.Machine

/-- The frame buffer's part of the invariant (R44(b) to (d), R52). -/
structure State.Held (s : State) : Prop where
  syncing : s.mode.syncing = true → s.n.val = 0
  candidate : s.mode = .searching → ∀ e, s.memRead 0 = some e → passesByteCheck s.member e.byte = true
  written : ∀ j, j < s.n.val → (s.memRead j).isSome = true
  rising : ∀ j e e', s.memRead j = some e → s.memRead (j + 1) = some e' → e.off < e'.off
  counted : ∀ j e, s.memRead j = some e → e.off ≤ s.offset

/-- The outputs' part of the invariant (R33, R44(e), R63, R109). -/
structure State.Emitted (s : State) : Prop where
  silent : s.curId = none → s.delivered = []
  termed : termMatches s.status s.term
  legal : s.status ≠ .faultIllegalTransition
  ordered : (s.delivered.map (·.off)).Pairwise (· < ·)
  past : s.status = .running → ∀ p ∈ s.delivered, p.off ≤ s.offset

/-- Every delivered packet is older than every buffered entry. -/
def State.Fresh (s : State) : Prop := ∀ p ∈ s.delivered, ∀ j e, s.memRead j = some e → p.off < e.off

theorem State.inv_iff {s : State} :
    s.Inv ↔ s.Held ∧ s.Emitted ∧ (s.status = .running → s.n.val < 16 ∧ s.Fresh) := by
  constructor
  · intro h
    exact ⟨{ h with }, { h with past := fun hr p hp => (h.older hr p hp).1 },
      fun hr => ⟨h.fill hr, fun p hp => (h.older hr p hp).2⟩⟩
  · rintro ⟨hh, he, hr⟩
    exact { hh, he with
      fill := fun h => (hr h).1
      older := fun h p hp => ⟨he.past h p hp, (hr h).2 p hp⟩ }

/-- A state that has ended its run meets the invariant without the bound on `n` (R44(a)). -/
theorem State.inv_of_ended {s : State} (hh : s.Held) (he : s.Emitted) (hn : s.status ≠ .running) : s.Inv :=
  State.inv_iff.mpr ⟨hh, he, fun hr => absurd hr hn⟩

/-! ### The buffer -/

theorem memRead_empty {s : State} (hn : s.n.val = 0) (j : Nat) : s.memRead j = none := memRead_ge (by omega)

theorem held_empty {s : State} (hn : s.n.val = 0) : s.Held where
  syncing _ := hn
  candidate := by simp [memRead_empty hn]
  written j hj := by omega
  rising := by simp [memRead_empty hn]
  counted := by simp [memRead_empty hn]

/-- With an empty buffer the invariant is the outputs' part alone. -/
theorem inv_of_empty {s : State} (hn : s.n.val = 0) (he : s.Emitted) : s.Inv :=
  State.inv_iff.mpr ⟨held_empty hn, he, fun _ => ⟨by omega, fun p _ j e hj => by simp [memRead_empty hn] at hj⟩⟩

/-- Offsets rise over any distance in the buffer (R44(d)). -/
theorem State.Held.rising_lt {s : State} (h : s.Held) {j k : Nat} {e e' : Entry} (hjk : j < k)
    (hj : s.memRead j = some e) (hk : s.memRead k = some e') : e.off < e'.off := by
  induction k, hjk using Nat.le_induction generalizing e' with
  | base => exact h.rising j e e' hj hk
  | succ k hjk ih =>
    obtain ⟨e'', hk'⟩ := Option.isSome_iff_exists.mp (h.written k (by have := memRead_lt hk; omega))
    exact BitVec.lt_trans (ih hk') (h.rising k e'' e' hk' hk)

/-- What an appended entry must be, to keep the buffer's part of the invariant. -/
theorem State.Held.append {s : State} (h : s.Held) {e : Entry} (hn : s.n.val < 16) (hm : s.mode.syncing = false)
    (hfirst : s.mode = .searching → s.n.val = 0 → passesByteCheck s.member e.byte = true)
    (hnew : ∀ j e', s.memRead j = some e' → e'.off < e.off) (hoff : e.off ≤ s.offset) : (s.append e).Held where
  syncing hs := by simp [hm] at hs
  candidate hs e' he' := by
    simp only [State.append_mode, State.append_member] at hs ⊢
    rcases append_memRead_cases hn he' with ⟨-, hold⟩ | ⟨h0, rfl⟩
    · exact h.candidate hs e' hold
    · exact hfirst hs h0.symm
  written j hj := by
    rw [State.append_n] at hj
    rcases Nat.lt_or_ge j s.n.val with hlt | hge
    · rw [append_memRead_lt hlt]; exact h.written j hlt
    · obtain rfl : j = s.n.val := by omega
      rw [append_memRead_self hn]; rfl
  rising j e₁ e₂ h₁ h₂ := by
    rcases append_memRead_cases hn h₂ with ⟨hlt, hold₂⟩ | ⟨hj, rfl⟩
    · rw [append_memRead_lt (by omega)] at h₁
      exact h.rising j e₁ e₂ h₁ hold₂
    · rw [append_memRead_lt (by omega)] at h₁
      exact hnew j e₁ h₁
  counted j e' he' := by
    rw [State.append_offset]
    rcases append_memRead_cases hn he' with ⟨-, hold⟩ | ⟨-, rfl⟩
    · exact h.counted j e' hold
    · exact hoff

/-- A compaction to a candidate keeps the buffer's part of the invariant (R54, R128). -/
theorem State.Held.compact {s : State} (h : s.Held) {j : Nat} {e : Entry} (hn : s.n.val = 16)
    (hj : s.memRead j = some e) (hp : passesByteCheck s.member e.byte = true) : (s.compact j).Held where
  syncing hs := by have := h.syncing (by simpa using hs); omega
  candidate _ e' he' := by
    rw [compact_memRead hn, Nat.zero_add, hj] at he'
    cases he'
    simpa using hp
  written k hk := by
    rw [State.compact_n] at hk
    rw [compact_memRead hn]
    exact h.written _ (by omega)
  rising k e₁ e₂ h₁ h₂ := by
    rw [compact_memRead hn] at h₁ h₂
    exact h.rising (k + j) e₁ e₂ h₁ (by rwa [Nat.add_right_comm] at h₂)
  counted k e' he' := by
    rw [compact_memRead hn] at he'
    simpa using h.counted _ e' he'

theorem State.Fresh.compact {s : State} (h : s.Fresh) {j : Nat} (hn : s.n.val = 16) : (s.compact j).Fresh := by
  intro p hp k e he
  rw [compact_memRead hn] at he
  exact h p (by simpa using hp) _ e he

theorem State.Fresh.append {s : State} (h : s.Fresh) {e : Entry} (hn : s.n.val < 16)
    (hnew : ∀ p ∈ s.delivered, p.off < e.off) : (s.append e).Fresh := by
  intro p hp j e' he'
  rw [State.append_delivered] at hp
  rcases append_memRead_cases hn he' with ⟨-, hold⟩ | ⟨-, rfl⟩
  · exact h p hp j e' hold
  · exact hnew p hp

/-! ### The outputs -/

/-- The outputs' part of the invariant reads five elements of the state. -/
theorem State.Emitted.congr {s t : State} (h : s.Emitted) (hd : t.delivered = s.delivered) (hc : t.curId = s.curId)
    (hs : t.status = s.status) (ht : t.term = s.term) (ho : t.offset = s.offset) : t.Emitted := by
  constructor <;> simp only [hd, hc, hs, ht, ho]
  exacts [h.silent, h.termed, h.legal, h.ordered, h.past]

theorem State.Emitted.log {s : State} (h : s.Emitted) (d : Diag) : (s.log d).Emitted :=
  h.congr (by simp) rfl rfl rfl rfl

theorem State.Emitted.compact {s : State} (h : s.Emitted) (j : Nat) : (s.compact j).Emitted :=
  h.congr (by simp) (by simp) (by simp) (by simp) (by simp)

theorem State.Fresh.log {s : State} (h : s.Fresh) (d : Diag) : (s.log d).Fresh := by
  simpa [State.Fresh] using h

/-- A run that was going on ends as its status says (R33, R178); nothing more is delivered. -/
theorem State.Emitted.terminate {s : State} (h : s.Emitted) {st : Status} {t : Term} (ht : termMatches st (some t))
    (hl : st ≠ .faultIllegalTransition) (hn : st ≠ .running) : (s.terminate st t).Emitted where
  silent := by simpa using h.silent
  termed := ht
  legal := hl
  ordered := by simpa using h.ordered
  past hr := absurd hr hn

/-! ### The demultiplexer -/

theorem Emits.held {s t : State} {ps : List Packet} (h : Emits s t ps) (hh : s.Held) : t.Held where
  syncing := by rw [h.mode, h.fill]; exact hh.syncing
  candidate := by simpa only [h.mode, h.memRead, h.member] using hh.candidate
  written := by simpa only [h.fill, h.memRead] using hh.written
  rising := by simpa only [h.memRead] using hh.rising
  counted := by simpa only [h.memRead, h.offset] using hh.counted

/-- While `cur_id` is `None` after the demultiplexer, it was before. -/
theorem Emits.curId_none {s t : State} {ps : List Packet} (h : Emits s t ps) (ht : t.curId = none) :
    s.curId = none := by
  by_contra hs
  have := h.curId (Option.isSome_iff_ne_none.mpr hs)
  simp [ht] at this

/-- The offset of buffer entry `j`, where one is held. -/
def State.offAt (s : State) (j : Nat) : Offset := ((s.memRead j).map Entry.off).getD 0

theorem offAt_of_memRead {s : State} {j : Nat} {e : Entry} (h : s.memRead j = some e) : e.off = s.offAt j := by
  simp [State.offAt, h]

/-- The packets of a frame rise in offset, and each has the offset of an entry of the frame (R160). -/
theorem execDemux_packets {s t : State} {ps : List Packet} (hh : s.Held) (hn : s.n.val = 16)
    (hd : execDemux s = .next t) (hps : Emits s t ps) :
    (ps.map (·.off)).Pairwise (· < ·) ∧ ∀ p ∈ ps, ∃ j e, s.memRead j = some e ∧ p.off = e.off := by
  obtain ⟨qs, hqs, hsub⟩ := execDemux_emits (offs := s.offAt) (fun j e he => offAt_of_memRead he) hd
  obtain rfl : qs = ps := List.append_cancel_left (hqs.delivered.symm.trans hps.delivered)
  have hread (j : Nat) (hj : j ∈ List.range 15) : ∃ e, s.memRead j = some e :=
    Option.isSome_iff_exists.mp (hh.written j (by have := List.mem_range.mp hj; omega))
  constructor
  · refine List.Pairwise.sublist hsub (List.pairwise_map.mpr (List.pairwise_lt_range.imp_of_mem ?_))
    intro j k hj hk hjk
    obtain ⟨e, he⟩ := hread j hj
    obtain ⟨e', he'⟩ := hread k hk
    rw [← offAt_of_memRead he, ← offAt_of_memRead he']
    exact hh.rising_lt hjk he he'
  · intro p hp
    obtain ⟨j, hj, hoff⟩ := List.mem_map.mp (hsub.subset (List.mem_map_of_mem hp))
    obtain ⟨e, he⟩ := hread j hj
    exact ⟨j, e, he, by rw [offAt_of_memRead he, hoff]⟩

/-- The demultiplexer keeps the outputs' part of the invariant, on a full buffer that is newer than what went out
before it. -/
theorem execDemux_emitted {s t : State} {ps : List Packet} (hh : s.Held) (he : s.Emitted) (hf : s.Fresh)
    (hr : s.status = .running) (hn : s.n.val = 16) (hd : execDemux s = .next t) (hps : Emits s t ps) : t.Emitted := by
  obtain ⟨hrise, hfrom⟩ := execDemux_packets hh hn hd hps
  have hterm : s.term = none := by have := he.termed; rwa [hr] at this
  refine ⟨?silent, ?termed, ?legal, ?ordered, ?past⟩
  case silent =>
    intro hc
    rw [hps.delivered, hps.silent hc, he.silent (hps.curId_none hc), List.append_nil]
  case termed =>
    rcases hps.ended hr with ⟨hs, ht⟩ | ⟨-, ht⟩
    · rw [hs, ht, hterm]; rfl
    · exact ht
  case legal =>
    rcases hps.ended hr with ⟨hs, -⟩ | ⟨hs | hs, -⟩ <;> rw [hs] <;> decide
  case ordered =>
    rw [hps.delivered, List.map_append, List.pairwise_append]
    refine ⟨he.ordered, hrise, fun o ho o' ho' => ?_⟩
    obtain ⟨p, hp, rfl⟩ := List.mem_map.mp ho
    obtain ⟨q, hq, rfl⟩ := List.mem_map.mp ho'
    obtain ⟨j, e, hj, hoff⟩ := hfrom q hq
    rw [hoff]
    exact hf p hp j e hj
  case past =>
    intro _ p hp
    rw [hps.offset]
    rw [hps.delivered] at hp
    rcases List.mem_append.mp hp with hp | hp
    · exact he.past hr p hp
    · obtain ⟨j, e, hj, hoff⟩ := hfrom p hp
      rw [hoff]
      exact hh.counted j e hj

/-! ### The completed frame -/

/-- Every row of a completed frame ends in the invariant (R127 to R131): it empties the buffer, compacts it to a
candidate, or has ended the run. -/
theorem FrameEffect.inv {s t : State} (h : FrameEffect s t) (hh : s.Held) (he : s.Emitted) (hf : s.Fresh)
    (hr : s.status = .running) (hn : s.n.val = 16) : t.Inv := by
  have logged (d : Diag) : (s.log d).Held ∧ (s.log d).Emitted ∧ (s.log d).Fresh :=
    ⟨{ hh with }, he.log d, hf.log d⟩
  cases h with
  | searchValid e u ps hm hok he0 hd hu hps =>
    obtain ⟨lh, le, lf⟩ := logged (.validFrame e.off)
    exact inv_of_empty rfl { execDemux_emitted lh le lf hr hn hd hps with }
  | searchStopped e u ps hm hok he0 hd hu hps =>
    obtain ⟨lh, le, lf⟩ := logged (.validFrame e.off)
    exact State.inv_of_ended (hps.held lh) (execDemux_emitted lh le lf hr hn hd hps) hu
  | compacted j e hm hok hj he0 hp hfirst =>
    have hh' : s.countInvalid.Held := { hh with }
    have hf' : s.countInvalid.Fresh := hf
    have he' : s.countInvalid.Emitted := { he with }
    refine State.inv_iff.mpr ⟨hh'.compact hn he0 hp, he'.compact j, fun _ => ⟨?_, hf'.compact hn⟩⟩
    rw [State.compact_n]; omega
  | emptied hm hok hnone => exact inv_of_empty rfl { he with }
  | valid u ps hm hok hd hu hps => exact inv_of_empty rfl { execDemux_emitted hh he hf hr hn hd hps with }
  | stopped u ps hm hok hd hu hps =>
    exact State.inv_of_ended (hps.held hh) (execDemux_emitted hh he hf hr hn hd hps) hu
  | tolerated e hm hok hc he0 => exact inv_of_empty rfl { he.log (.invalidFrame s.consec e.off) with }
  | resumed e hm hok hc he0 => exact inv_of_empty rfl { he.log (.resumeSearch e.off) with }

/-! ### The events -/

/-- What holds when a `BYTE` event has counted its byte and not yet looked at it (R121): the invariant, with everything
in the block older than the byte. -/
structure State.Counted (s : State) : Prop where
  held : s.Held
  emitted : s.Emitted
  fresh : s.Fresh
  running : s.status = .running
  fill : s.n.val ≤ 15
  entries : ∀ j e, s.memRead j = some e → e.off < s.offset
  packets : ∀ p ∈ s.delivered, p.off < s.offset

/-- Counting a byte makes everything in the block older than it, where the counter does not wrap (R11, R31). -/
theorem countByte_counted {s : State} (h : s.Inv) (hr : s.status = .running)
    (ho : s.offset ≠ BitVec.allOnes Config.offsetBits) : s.countByte.Counted := by
  obtain ⟨hh, he, hrest⟩ := State.inv_iff.mp h
  obtain ⟨hn, hf⟩ := hrest hr
  have hlt {o : Offset} (hle : o ≤ s.offset) : o < s.offset + 1 := by
    have hmax : s.offset.toNat ≠ 2 ^ 64 - 1 := fun h => ho ((offset_eq_allOnes_iff _).mpr h)
    have hsucc : (s.offset + 1).toNat = (s.offset.toNat + 1) % 2 ^ 64 := BitVec.toNat_add ..
    have hbound : s.offset.toNat < 2 ^ 64 := s.offset.isLt
    rw [BitVec.le_def] at hle
    rw [BitVec.lt_def, hsucc]
    omega
  exact {
    held := { hh with counted := fun j e hj => BitVec.le_of_lt (hlt (hh.counted j e hj)) }
    emitted := { he with past := fun _ p hp => BitVec.le_of_lt (hlt (he.past hr p hp)) }
    fresh := hf
    running := hr
    fill := Nat.le_of_lt_succ hn
    entries := fun j e hj => hlt (hh.counted j e hj)
    packets := fun p hp => hlt (he.past hr p hp) }

theorem syncing_false {m : Mode} (h : m = .searching ∨ m = .framing) : m.syncing = false := by
  rcases h with rfl | rfl <;> rfl

/-- The counted byte appended to the buffer. -/
theorem State.Counted.append {s : State} (h : s.Counted) (b : Byte) (ts : Timestamp)
    (hm : s.mode = .searching ∨ s.mode = .framing)
    (hp : s.mode = .searching → s.n.val = 0 → passesByteCheck s.member b = true) :
    (s.append (s.entryOf b ts)).Held ∧ (s.append (s.entryOf b ts)).Emitted ∧ (s.append (s.entryOf b ts)).Fresh := by
  have hn : s.n.val < 16 := by have := h.fill; omega
  exact ⟨h.held.append hn (syncing_false hm) hp h.entries (BitVec.le_refl _), { h.emitted with },
    h.fresh.append hn h.packets⟩

/-- A byte stored short of the sixteenth keeps the invariant (R123 to R125). -/
theorem State.Counted.append_inv {s : State} (h : s.Counted) (b : Byte) (ts : Timestamp)
    (hm : s.mode = .searching ∨ s.mode = .framing)
    (hp : s.mode = .searching → s.n.val = 0 → passesByteCheck s.member b = true) (hn : s.n.val ≤ 14) :
    (s.append (s.entryOf b ts)).Inv := by
  obtain ⟨hh, he, hf⟩ := h.append b ts hm hp
  exact State.inv_iff.mpr ⟨hh, he, fun _ => ⟨by rw [State.append_n]; omega, hf⟩⟩

/-- Every class of byte keeps the invariant: the matcher's rows find the buffer empty, the driver's rows append the
byte, and the sixteenth completes a frame. -/
theorem ByteEffect.inv {b : Byte} {ts : Timestamp} {s t : State} (h : ByteEffect b ts s t) (hc : s.Counted) :
    t.Inv := by
  cases h with
  | sync m hl hn hs hf =>
    have h0 : s.n.val = 0 := by
      cases m with
      | searching => exact hc.held.syncing (hs rfl)
      | framing => exact hc.held.syncing (hf rfl)
      | searchingSyncing k => exact (hn rfl).elim hc.held.syncing id
      | framingSyncing k => exact (hn rfl).elim hc.held.syncing id
    exact inv_of_empty h0 { hc.emitted with }
  | report m d hl hm hs => exact inv_of_empty (hc.held.syncing hs) { hc.emitted.log d with }
  | accepted hm hn hp =>
    have hv : (s.setVerdict true).Counted := { hc with held := { hc.held with }, emitted := { hc.emitted with } }
    exact hv.append_inv b ts (.inl hm) (fun _ _ => hp) (by rw [State.setVerdict_n]; omega)
  | discarded hm hn => exact inv_of_empty hn { hc.emitted with }
  | first hm hn => exact hc.append_inv b ts (.inr hm) (by simp [hm]) (by omega)
  | stored hm hn => exact hc.append_inv b ts hm (by omega) hn.2
  | completed ok t hm hn hf h =>
    obtain ⟨hh, he, hf⟩ := hc.append b ts hm (by omega)
    exact h.inv { hh with } { he with } hf hc.running (by simp [hn])

/-! ### Reset and the step -/

/-- A block that has delivered nothing and is running with no terminal record. -/
theorem emitted_of_silent {s : State} (hd : s.delivered = []) (hs : s.status = .running) (ht : s.term = none) :
    s.Emitted := by
  constructor <;> simp [hd, hs, ht, termMatches]

/-- Reset empties the buffer and delivers nothing (R45). -/
theorem resetWith_inv (member : MemberTable) (intermix : Bool) : (State.resetWith member intermix).Inv :=
  inv_of_empty rfl (emitted_of_silent rfl rfl rfl)

/-- Settles O56: `State.reset` is the reset with one configuration. -/
theorem resetMeetsTheInvariant : Obligations.ResetMeetsTheInvariant := ⟨resetWith_inv _ _, resetWith_inv⟩

/-- Entry into a terminal status other than the transition fault keeps the invariant (R178). -/
theorem terminate_inv {s : State} (h : s.Inv) {st : Status} {t : Term} (ht : termMatches st (some t))
    (hl : st ≠ .faultIllegalTransition) (hn : st ≠ .running) : (s.terminate st t).Inv := by
  obtain ⟨hh, he, -⟩ := State.inv_iff.mp h
  exact State.inv_of_ended { hh with } (he.terminate ht hl hn) hn

theorem log_inv {s : State} (h : s.Inv) (d : Diag) : (s.log d).Inv := by
  obtain ⟨hh, he, hr⟩ := State.inv_iff.mp h
  exact State.inv_iff.mpr ⟨{ hh with }, he.log d, fun h => ⟨(hr h).1, (hr h).2.log d⟩⟩

/-- Settles O57: a step is one event or a reset. -/
theorem everyStepKeepsTheInvariant : Obligations.EveryStepKeepsTheInvariant := by
  intro s t h hstep
  have taken (rest : List HostAction) : (s.takeInput rest).Inv := { h with }
  rcases step_eq_next hstep with ⟨b, ts, rest, -, hr, ho, hb⟩ | ⟨rest, -, -, rfl⟩ | ⟨err, rest, -, -, rfl⟩ |
    ⟨member, intermix, rest, -, rfl⟩
  · exact hb.inv (countByte_counted (taken rest) hr ho)
  · exact terminate_inv (st := .done) (log_inv (taken rest) _) ⟨_, rfl⟩ (by decide) (by decide)
  · exact terminate_inv (st := .abortedSrc) (taken rest) ⟨_, rfl⟩ (by decide) (by decide)
  · exact { resetWith_inv member intermix with }

end Sys2Proof.Machine
end

section
/-! PROOFS. What a `BYTE` event leaves alone and what it may write of the registers (10_state.md), and the values the
registers and their codes start from. -/

namespace Sys2Proof.Machine

/-! ### What an event keeps -/

/-- What every part of a `BYTE` event leaves alone: the offset once counted, the latched configuration, the input port
and the outputs made before it (R31, R62, R65). -/
structure Keeps (s t : State) : Prop where
  offset : t.offset = s.offset
  member : t.member = s.member
  intermix : t.intermix = s.intermix
  input : t.input = s.input
  out : ∃ l, t.out = s.out ++ l

/-- An update that touches none of these, the outputs included. -/
theorem Keeps.of_same {s t : State} (ho : t.offset = s.offset) (hm : t.member = s.member)
    (hi : t.intermix = s.intermix) (hp : t.input = s.input) (hout : t.out = s.out) : Keeps s t :=
  ⟨ho, hm, hi, hp, [], by rw [hout, List.append_nil]⟩

theorem Keeps.trans {s t u : State} (h₁ : Keeps s t) (h₂ : Keeps t u) : Keeps s u where
  offset := h₂.offset.trans h₁.offset
  member := h₂.member.trans h₁.member
  intermix := h₂.intermix.trans h₁.intermix
  input := h₂.input.trans h₁.input
  out := by
    obtain ⟨l₁, e₁⟩ := h₁.out
    obtain ⟨l₂, e₂⟩ := h₂.out
    exact ⟨l₁ ++ l₂, by rw [e₂, e₁, List.append_assoc]⟩

theorem keeps_log (s : State) (d : Diag) : Keeps s (s.log d) := ⟨rfl, rfl, rfl, rfl, _, rfl⟩

theorem keeps_append (s : State) (e : Entry) : Keeps s (s.append e) := by
  apply Keeps.of_same <;> simp

theorem Emits.keeps {s t : State} {ps : List Packet} (h : Emits s t ps) : Keeps s t where
  offset := h.offset
  member := h.member
  intermix := h.intermix
  input := h.input
  out := h.out

theorem FrameEffect.keeps {s t : State} (h : FrameEffect s t) : Keeps s t := by
  cases h with
  | searchValid e u ps hm hf he hd hu hps => exact (keeps_log s _).trans { hps.keeps with }
  | searchStopped e u ps hm hf he hd hu hps => exact (keeps_log s _).trans hps.keeps
  | compacted j e => apply Keeps.of_same <;> simp
  | emptied => exact .of_same rfl rfl rfl rfl rfl
  | valid u ps hm hf hd hu hps => exact { hps.keeps with }
  | stopped u ps hm hf hd hu hps => exact hps.keeps
  | tolerated e => exact ⟨rfl, rfl, rfl, rfl, _, rfl⟩
  | resumed e => exact ⟨rfl, rfl, rfl, rfl, _, rfl⟩

theorem ByteEffect.keeps {b : Byte} {ts : Timestamp} {s t : State} (h : ByteEffect b ts s t) : Keeps s t := by
  cases h with
  | sync m => exact .of_same rfl rfl rfl rfl rfl
  | report m d => exact ⟨rfl, rfl, rfl, rfl, _, rfl⟩
  | accepted => exact { keeps_append (s.setVerdict true) _ with }
  | discarded => exact .of_same rfl rfl rfl rfl rfl
  | first => exact keeps_append s _
  | stored => exact keeps_append s _
  | completed ok t hm hn hf h =>
    exact (keeps_append s (s.entryOf b ts)).trans (u := t) { h.keeps with }

/-- Settles O41: every class of byte works on the state with the byte counted, and keeps what it finds there. -/
theorem everyByteIsCountedOnce : Obligations.EveryByteIsCountedOnce := by
  intro s t
  refine ⟨fun b ts h => ?_, fun h => ?_, fun err h => ?_⟩
  · obtain ⟨-, -, hb⟩ := execByte_effect h
    obtain ⟨ho, hm, hi, hp, hout⟩ := hb.keeps
    exact ⟨by simpa using ho, by simpa using hm, by simpa using hi, by simpa using hp, by simpa using hout⟩
  · obtain ⟨-, -, h⟩ := whileRunning_eq_next.mp h
    cases h; rfl
  · obtain ⟨-, -, h⟩ := whileRunning_eq_next.mp h
    cases h; rfl

/-! ### The Current Channel ID -/

/-- A completed frame may replace the Current Channel ID, and never takes it away (R158). -/
theorem FrameEffect.curId_isSome {s t : State} (h : FrameEffect s t) (hs : s.curId.isSome = true) :
    t.curId.isSome = true := by
  cases h with
  | searchValid e u ps hm hf he hd hu hps => exact hps.curId hs
  | searchStopped e u ps hm hf he hd hu hps => exact hps.curId hs
  | compacted j e => simpa using hs
  | emptied => exact hs
  | valid u ps hm hf hd hu hps => exact hps.curId hs
  | stopped u ps hm hf hd hu hps => exact hps.curId hs
  | tolerated e => exact hs
  | resumed e => exact hs

/-- Every class of byte leaves the Current Channel ID, but for the sixteenth of a frame. -/
theorem ByteEffect.curId {b : Byte} {ts : Timestamp} {s t : State} (h : ByteEffect b ts s t) :
    t.curId = s.curId ∨ (s.n.val = 15 ∧ (s.curId.isSome = true → t.curId.isSome = true)) := by
  cases h with
  | sync m => exact .inl rfl
  | report m d => exact .inl rfl
  | accepted => exact .inl (by simp)
  | discarded => exact .inl rfl
  | first => exact .inl (by simp)
  | stored => exact .inl (by simp)
  | completed ok t hm hn hf h => exact .inr ⟨hn, fun hs => h.curId_isSome (by simpa using hs)⟩

/-- Settles O44: `n` and `cur_id` are the same before and after the byte is counted. -/
theorem currentIdIsOnlyEverReplaced : Obligations.CurrentIdIsOnlyEverReplaced := by
  intro s t b ts h
  obtain ⟨-, -, hb⟩ := execByte_effect h
  rcases hb.curId with hc | ⟨hn, hc⟩
  · rw [State.countByte_curId] at hc
    exact ⟨fun _ => hc, fun hs => hc ▸ hs⟩
  · exact ⟨fun hne => absurd (by simpa using hn) hne, by simpa using hc⟩

/-! ### The consecutive-valid-frame counter -/

/-- `sat_inc` is the saturating increment R11 states. -/
theorem satInc_eq_saturated (c : Counter) : satInc c = saturated c := by
  have hmax : c = BitVec.allOnes Config.cntBits ↔ c.toNat = 2 ^ 32 - 1 := by
    rw [BitVec.toNat_eq, BitVec.toNat_allOnes]
  simp only [satInc, saturated, hmax]

/-- The writes of `consec` (R27), between a state in mode `m` with `consec = c` and state `t`. -/
def ConsecWritten (m : Mode) (c : Counter) (t : State) : Prop :=
  t.consec = c ∨ (m = .searching ∧ t.mode = .framing ∧ t.consec = 1) ∨
    (m = .framing ∧ t.mode = .framing ∧ t.consec = saturated c) ∨
    (m = .framing ∧ t.mode = .framing ∧ c ≠ 0 ∧ t.consec = 0)

theorem FrameEffect.consec {s t : State} (h : FrameEffect s t) : ConsecWritten s.mode s.consec t := by
  cases h with
  | searchValid e u ps hm hf he hd hu hps => exact .inr (.inl ⟨hm, rfl, rfl⟩)
  | searchStopped e u ps hm hf he hd hu hps => exact .inl hps.consec
  | compacted j e => exact .inl (by simp)
  | emptied => exact .inl rfl
  | valid u ps hm hf hd hu hps =>
    exact .inr (.inr (.inl ⟨hm, hps.mode.trans hm, by simp [hps.consec, satInc_eq_saturated]⟩))
  | stopped u ps hm hf hd hu hps => exact .inl hps.consec
  | tolerated e hm hf hc => exact .inr (.inr (.inr ⟨hm, hm, hc, rfl⟩))
  | resumed e => exact .inl rfl

theorem ByteEffect.consec {b : Byte} {ts : Timestamp} {s t : State} (h : ByteEffect b ts s t) :
    ConsecWritten s.mode s.consec t := by
  cases h with
  | sync m => exact .inl rfl
  | report m d => exact .inl rfl
  | accepted => exact .inl (by simp)
  | discarded => exact .inl rfl
  | first => exact .inl (by simp)
  | stored => exact .inl (by simp)
  | completed ok t hm hn hf h => simpa using h.consec

/-- Settles O45: only the rows of a completed frame write `consec`. -/
theorem consecutiveCountHasFourWrites : Obligations.ConsecutiveCountHasFourWrites := by
  intro s t b ts h
  obtain ⟨-, -, hb⟩ := execByte_effect h
  simpa [ConsecWritten] using hb.consec

/-! ### A step, reset and the observation outputs -/

/-- The bytes of an event decode at the port of its kind to the operation it asks for (R38). -/
theorem decode_port_encode (e : Event) : decode (.port e.kind) (encode e.instr) = .ok e.instr := by
  cases e with
  | byte b ts => exact withWord64_word64Bytes ts [] fun ts _ => .ok (.byte b ts)
  | endStream => rfl
  | srcErr err => exact withWord64_word64Bytes err [] fun err _ => .ok (.srcErr err)

theorem step_event {s : State} {e : Event} {rest : List HostAction} (h : s.input = .event e :: rest) :
    step s = exec e.instr (s.takeInput rest) := by
  rw [step, takeAction, h]

/-- Settles O6: the host's next action is taken off the port before its meaning runs. -/
theorem stepRunsTheEventAtThePort : Obligations.StepRunsTheEventAtThePort :=
  fun _ e _ h => ⟨decode_port_encode e, step_event h⟩

/-- No entry of the buffer is written after reset (R24, R45). -/
theorem reset_buf (j : Fin 16) : State.reset.buf[j.val] = none := Vector.getElem_replicate ..

/-- Settles O54: each register holds the value `State.resetWith` gives it, whatever the table. -/
theorem resetStateHoldsTheResetValues : Obligations.ResetStateHoldsTheResetValues :=
  ⟨rfl, reset_buf, rfl, rfl, rfl, rfl, rfl, rfl, rfl, rfl, rfl, rfl⟩

/-- Settles O55: the codes are closed values, and each observation is the register it names. -/
theorem observationOutputsCarryTheCodes : Obligations.ObservationOutputsCarryTheCodes := by
  refine ⟨rfl, rfl, rfl, rfl, rfl, rfl, rfl, rfl, rfl, rfl, rfl, rfl, rfl, rfl, fun s => ?_⟩
  exact ⟨rfl, rfl, rfl, rfl, rfl, rfl, rfl, rfl, rfl, rfl⟩

end Sys2Proof.Machine
end

section
/-! PROOFS. Timestamps (R23, D2): every operation commutes with a relabelling of the timestamps in its state and its
operands. One lemma for each way the parts of an event follow each other, one for each named update of the state, and
then one for each operation, in the order in which they call each other. -/

namespace Sys2Proof

/-- The entry with its timestamp relabelled. -/
def Entry.mapTs (g : Timestamp → Timestamp) (e : Entry) : Entry := { e with ts := g e.ts }

@[simp] theorem Entry.mapTs_byte (g : Timestamp → Timestamp) (e : Entry) : (e.mapTs g).byte = e.byte := rfl
@[simp] theorem Entry.mapTs_off (g : Timestamp → Timestamp) (e : Entry) : (e.mapTs g).off = e.off := rfl
@[simp] theorem Entry.mapTs_ts (g : Timestamp → Timestamp) (e : Entry) : (e.mapTs g).ts = g e.ts := rfl

/-- The event with its timestamp relabelled. -/
def Event.mapTs (g : Timestamp → Timestamp) : Event → Event
  | .byte b ts => .byte b (g ts)
  | .endStream => .endStream
  | .srcErr err => .srcErr err

end Sys2Proof

namespace Sys2Proof.Machine

variable (g : Timestamp → Timestamp) (s : State)

/-- The host's action with its timestamp relabelled. -/
def HostAction.mapTs : HostAction → HostAction
  | .event e => .event (e.mapTs g)
  | .reset member intermix => .reset member intermix

/-! ### What a relabelling leaves alone -/

@[simp] theorem mapTs_mode : (s.mapTs g).mode = s.mode := rfl
@[simp] theorem mapTs_n : (s.mapTs g).n = s.n := rfl
@[simp] theorem mapTs_curId : (s.mapTs g).curId = s.curId := rfl
@[simp] theorem mapTs_consec : (s.mapTs g).consec = s.consec := rfl
@[simp] theorem mapTs_totalValid : (s.mapTs g).totalValid = s.totalValid := rfl
@[simp] theorem mapTs_offset : (s.mapTs g).offset = s.offset := rfl
@[simp] theorem mapTs_status : (s.mapTs g).status = s.status := rfl
@[simp] theorem mapTs_member : (s.mapTs g).member = s.member := rfl
@[simp] theorem mapTs_intermix : (s.mapTs g).intermix = s.intermix := rfl
@[simp] theorem mapTs_answers : (s.mapTs g).answers = s.answers := rfl
@[simp] theorem mapTs_verdict : (s.mapTs g).verdict = s.verdict := rfl
@[simp] theorem mapTs_auxVec : (s.mapTs g).auxVec = s.auxVec := rfl

/-- The buffer holds the same entries, relabelled. -/
@[simp] theorem mapTs_memRead (j : Nat) : (s.mapTs g).memRead j = (s.memRead j).map (Entry.mapTs g) := by
  have hbuf : (s.mapTs g).buf = s.buf.map (Option.map (Entry.mapTs g)) := rfl
  by_cases hj : j < s.n.val
  · simp only [State.memRead, mapTs_n, hj, if_true, hbuf, Vector.getElem?_map]
    cases s.buf[j]? <;> rfl
  · simp [State.memRead, hj]

/-- The host does the same at the input port, relabelled. -/
theorem mapTs_input : (s.mapTs g).input = s.input.map (HostAction.mapTs g) :=
  List.map_congr_left fun a _ => by rcases a with ⟨_ | _ | _⟩ | _ <;> rfl

/-! ### The updates of the state commute with a relabelling -/

@[simp] theorem mapTs_setMode (m : Mode) : (s.mapTs g).setMode m = (s.setMode m).mapTs g := rfl
@[simp] theorem mapTs_setCurId (id : ChanId) : (s.mapTs g).setCurId id = (s.setCurId id).mapTs g := rfl
@[simp] theorem mapTs_setConsec (c : Counter) : (s.mapTs g).setConsec c = (s.setConsec c).mapTs g := rfl
@[simp] theorem mapTs_countInvalid : (s.mapTs g).countInvalid = s.countInvalid.mapTs g := rfl
@[simp] theorem mapTs_countOrphan : (s.mapTs g).countOrphan = s.countOrphan.mapTs g := rfl
@[simp] theorem mapTs_dropFrame : (s.mapTs g).dropFrame = s.dropFrame.mapTs g := rfl
@[simp] theorem mapTs_takeAnswer (rest : List SinkAnswer) :
    (s.mapTs g).takeAnswer rest = (s.takeAnswer rest).mapTs g := rfl

@[simp] theorem mapTs_emit_diag (d : Diag) : (s.mapTs g).emit (.diag d) = (s.emit (.diag d)).mapTs g := by
  simp [State.emit, State.mapTs]

@[simp] theorem mapTs_emit_packet (id : ChanId) (d : Byte) (off : Offset) (ts : Timestamp) :
    (s.mapTs g).emit (.packet (mkPacket id d off (g ts))) = (s.emit (.packet (mkPacket id d off ts))).mapTs g := by
  simp [State.emit, State.mapTs, mkPacket]

@[simp] theorem mapTs_emit_refusedPacket (id : ChanId) (d : Byte) (off : Offset) (ts : Timestamp) :
    (s.mapTs g).emit (.refusedPacket (mkPacket id d off (g ts))) =
      (s.emit (.refusedPacket (mkPacket id d off ts))).mapTs g := by
  simp [State.emit, State.mapTs, mkPacket]

@[simp] theorem mapTs_terminate (st : Status) (t : Term) : (s.mapTs g).terminate st t = (s.terminate st t).mapTs g := by
  simp [State.terminate, State.mapTs]

@[simp] theorem mapTs_append (b : Byte) (ts : Timestamp) :
    (s.mapTs g).append ((s.mapTs g).entryOf b (g ts)) = (s.append (s.entryOf b ts)).mapTs g := by
  simp [State.append, State.mapTs, State.entryOf]

@[simp] theorem mapTs_compact (j : Nat) : (s.mapTs g).compact j = (s.compact j).mapTs g := by
  simp [State.compact, State.mapTs, Function.comp_def, Option.join_map_eq_map_join]

@[simp] theorem mapTs_applyReset (member : MemberTable) (intermix : Bool) :
    (s.mapTs g).applyReset member intermix = (s.applyReset member intermix).mapTs g := by
  simp [State.applyReset, State.resetWith, State.mapTs]

/-! ### How the parts of an event follow each other -/

section

variable {g s}

theorem whileRunning_mapTs {c : Bool} {k k' : Result} (hk : k' = resultMapTs g k) :
    whileRunning (s.mapTs g) c k' = resultMapTs g (whileRunning s c k) := by
  subst hk
  by_cases hr : s.status = .running <;> cases c <;> simp [whileRunning, hr, resultMapTs]

theorem andThen_mapTs {r r' : Result} {k k' : State → Result} (hr : r' = resultMapTs g r)
    (hk : ∀ u : State, k' (u.mapTs g) = resultMapTs g (k u)) :
    andThen r' k' = resultMapTs g (andThen r k) := by
  subst hr
  cases r with
  | next u => by_cases hu : u.status = .running <;> simp [andThen, resultMapTs, hu, hk]
  | fault f => rfl
  | refused f => rfl

theorem withEntry_mapTs {j : Nat} {k k' : Entry → Result} (hk : ∀ e : Entry, k' (e.mapTs g) = resultMapTs g (k e)) :
    withEntry (s.mapTs g) j k' = resultMapTs g (withEntry s j k) := by
  rw [withEntry, withEntry, mapTs_memRead]
  cases s.memRead j with
  | some e => exact hk e
  | none => rfl

end

/-! ### The sender and the demultiplexer -/

theorem execSinkErr_mapTs (err : ErrValue) : execSinkErr err (s.mapTs g) = resultMapTs g (execSinkErr err s) :=
  whileRunning_mapTs (by simp [resultMapTs])

theorem execSend_mapTs (id : ChanId) (d : Byte) (off : Offset) (ts : Timestamp) :
    execSend id d off (g ts) (s.mapTs g) = resultMapTs g (execSend id d off ts s) := by
  apply whileRunning_mapTs
  rw [mapTs_answers]
  split
  · rfl
  · split
    · rfl
    · simp [resultMapTs]
    · rw [mapTs_takeAnswer, mapTs_emit_refusedPacket]
      exact execSinkErr_mapTs g _ _

theorem runHalfClass_mapTs (c : HalfClass) (i : HalfIndex) (lo hi : Entry) :
    runHalfClass c i (lo.mapTs g) (hi.mapTs g) (s.mapTs g) = resultMapTs g (runHalfClass c i lo hi s) := by
  cases c with
  | idImm =>
    exact whileRunning_mapTs (andThen_mapTs (execSend_mapTs g s ..) fun u => rfl)
  | idDelay =>
    apply whileRunning_mapTs
    rw [mapTs_curId]
    cases s.curId with
    | some c => exact andThen_mapTs (execSend_mapTs g s ..) fun u => rfl
    | none => rfl
  | idOrphan =>
    exact whileRunning_mapTs (by simp [resultMapTs])
  | data =>
    apply whileRunning_mapTs
    rw [mapTs_curId]
    cases s.curId with
    | some c => exact andThen_mapTs (execSend_mapTs g s ..) fun u => execSend_mapTs g u ..
    | none => simp [resultMapTs]

theorem demuxHalf_mapTs (i : HalfIndex) : demuxHalf i (s.mapTs g) = resultMapTs g (demuxHalf i s) :=
  withEntry_mapTs fun lo => withEntry_mapTs fun hi => runHalfClass_mapTs g s (s.halfClassOf i lo) i lo hi

theorem demuxLast_mapTs : demuxLast (s.mapTs g) = resultMapTs g (demuxLast s) := by
  refine withEntry_mapTs fun lo => withEntry_mapTs fun hi => ?_
  rw [Entry.mapTs_byte]
  split
  · exact whileRunning_mapTs rfl
  · apply whileRunning_mapTs
    rw [mapTs_curId]
    cases s.curId with
    | some c => exact execSend_mapTs g s ..
    | none => simp [resultMapTs]

theorem demuxWalk_mapTs (is : List HalfIndex) : demuxWalk is (s.mapTs g) = resultMapTs g (demuxWalk is s) := by
  induction is generalizing s with
  | nil => exact demuxLast_mapTs g s
  | cons i is ih => exact andThen_mapTs (demuxHalf_mapTs g s i) ih

theorem execDemux_mapTs : execDemux (s.mapTs g) = resultMapTs g (execDemux s) :=
  whileRunning_mapTs (withEntry_mapTs fun _ => andThen_mapTs (whileRunning_mapTs rfl) fun u => demuxWalk_mapTs g u _)

/-! ### The completed frame -/

theorem entriesAt_mapTs (js : List Nat) :
    (s.mapTs g).entriesAt js = (s.entriesAt js).map (List.map (Entry.mapTs g)) := by
  induction js with
  | nil => rfl
  | cons j js ih =>
    rw [State.entriesAt, State.entriesAt, mapTs_memRead, ih]
    cases s.memRead j <;> simp [Function.comp_def]

/-- The frame check reads bytes only (R142). -/
@[simp] theorem mapTs_frameOk : (s.mapTs g).frameOk = s.frameOk := by
  simp [State.frameOk, entriesAt_mapTs, Function.comp_def]

@[simp] theorem mapTs_frameIs (c : FrameClass) : (s.mapTs g).frameIs c = s.frameIs c := by
  simp [State.frameIs]

theorem rescan_mapTs (js : List Nat) : rescan js (s.mapTs g) = resultMapTs g (rescan js s) := by
  induction js with
  | nil => rfl
  | cons j js ih =>
    refine withEntry_mapTs fun e => ?_
    rw [Entry.mapTs_byte, mapTs_member]
    split
    · rw [mapTs_compact]; rfl
    · exact ih

theorem runFrameClass_mapTs (c : FrameClass) : runFrameClass c (s.mapTs g) = resultMapTs g (runFrameClass c s) := by
  cases c with
  | searchValid =>
    rw [runFrameClass, execSearchFrameValid, mapTs_frameIs]
    refine whileRunning_mapTs (withEntry_mapTs fun e => andThen_mapTs ?_ fun u => rfl)
    rw [State.log_eq_emit, mapTs_emit_diag]
    exact execDemux_mapTs g _
  | searchInvalid =>
    rw [runFrameClass, execSearchFrameInvalid, mapTs_frameIs]
    exact whileRunning_mapTs (rescan_mapTs g s.countInvalid _)
  | valid =>
    rw [runFrameClass, execFrameValid, mapTs_frameIs]
    exact whileRunning_mapTs (andThen_mapTs (execDemux_mapTs g s) fun u => rfl)
  | invalidTolerated =>
    rw [runFrameClass, execFrameInvalidTolerated, mapTs_frameIs]
    exact whileRunning_mapTs (withEntry_mapTs fun e => by simp [resultMapTs])
  | invalidResume =>
    rw [runFrameClass, execFrameInvalidResume, mapTs_frameIs]
    exact whileRunning_mapTs (withEntry_mapTs fun e => by simp [resultMapTs])

theorem execFrameComplete_mapTs : execFrameComplete (s.mapTs g) = resultMapTs g (execFrameComplete s) := by
  refine whileRunning_mapTs (andThen_mapTs ?_ fun u => ?_)
  · apply whileRunning_mapTs
    rw [mapTs_frameOk]
    cases s.frameOk <;> rfl
  · rw [mapTs_verdict, mapTs_mode, mapTs_consec]
    split
    · exact runFrameClass_mapTs g u _
    · rfl

/-! ### The classes of a byte -/

theorem execFrameByte_mapTs (b : Byte) (ts : Timestamp) :
    execFrameByte b (g ts) (s.mapTs g) = resultMapTs g (execFrameByte b ts s) := by
  apply whileRunning_mapTs
  simp only [mapTs_append, mapTs_n]
  split
  · exact execFrameComplete_mapTs g _
  · rfl

theorem execNoSync_mapTs (b : Byte) (ts : Timestamp) :
    execNoSync b (g ts) (s.mapTs g) = resultMapTs g (execNoSync b ts s) := by
  apply whileRunning_mapTs
  rw [mapTs_mode]
  split
  · refine andThen_mapTs (whileRunning_mapTs rfl) fun u => ?_
    rw [mapTs_verdict]
    split
    · apply whileRunning_mapTs
      rw [mapTs_append]; rfl
    · exact whileRunning_mapTs rfl
  · apply whileRunning_mapTs
    rw [mapTs_append]; rfl
  · rfl
  · rfl

theorem runMatchClass_mapTs (c : MatchClass) (b : Byte) (ts : Timestamp) :
    runMatchClass c b (g ts) (s.mapTs g) = resultMapTs g (runMatchClass c b ts s) := by
  cases c with
  | syncStart =>
    apply whileRunning_mapTs
    rw [mapTs_mode]
    cases s.mode.startSync <;> rfl
  | syncAdvance =>
    apply whileRunning_mapTs
    rw [mapTs_mode]
    cases s.mode.advanceSync <;> rfl
  | syncCompleteS => exact whileRunning_mapTs (by simp [resultMapTs])
  | syncCompleteF => exact whileRunning_mapTs rfl
  | syncAbortS => exact whileRunning_mapTs rfl
  | syncDerail => exact whileRunning_mapTs (by simp [resultMapTs])
  | noSync => exact execNoSync_mapTs g s b ts
  | frameByte => exact execFrameByte_mapTs g s b ts

theorem checkTransition_mapTs (m : Mode) : checkTransition m (s.mapTs g) = (checkTransition m s).mapTs g := by
  rw [checkTransition, checkTransition, mapTs_mode]
  split
  · rfl
  · exact mapTs_terminate g s _ _

theorem execByte_mapTs (b : Byte) (ts : Timestamp) :
    execByte b (g ts) (s.mapTs g) = resultMapTs g (execByte b ts s) := by
  apply whileRunning_mapTs
  rw [mapTs_offset]
  split
  · rfl
  · exact andThen_mapTs (runMatchClass_mapTs g s.countByte _ b ts) fun u =>
      congrArg Host.Outcome.next (checkTransition_mapTs g u s.mode)

/-! ### A step -/

theorem exec_event_mapTs (e : Event) : exec (e.mapTs g).instr (s.mapTs g) = resultMapTs g (exec e.instr s) := by
  cases e with
  | byte b ts => exact execByte_mapTs g s b ts
  | endStream => exact whileRunning_mapTs (by simp [resultMapTs])
  | srcErr err => exact whileRunning_mapTs (by simp [resultMapTs])

theorem mapTs_takeInput (rest : List HostAction) :
    (s.mapTs g).takeInput (rest.map (HostAction.mapTs g)) = (s.takeInput rest).mapTs g := by
  have h := mapTs_input g (s.takeInput rest)
  rw [State.takeInput_input] at h
  rw [← h]
  rfl

/-- Settles O60: the action at the port is the same one with its timestamp relabelled, and each event's meaning commutes
with the relabelling. -/
theorem timestampsAreCarriedAndNeverRead : Obligations.TimestampsAreCarriedAndNeverRead := by
  intro g s
  rw [step, step, takeAction, takeAction, mapTs_input]
  rcases s.input with _ | ⟨e | ⟨member, intermix⟩, rest⟩
  · by_cases hr : s.status = .running <;> simp [hr, resultMapTs]
  · simpa only [List.map_cons, HostAction.mapTs, mapTs_takeInput] using exec_event_mapTs g (s.takeInput rest) e
  · simp [HostAction.mapTs, mapTs_takeInput, resultMapTs]

end Sys2Proof.Machine
end

section
/-! PROOFS. The configuration and the frame buffer (20_memory.md): only reset writes `MEMBER` and `INTERMIX`, and no
step from the invariant reads an unwritten entry or gives an operation operands outside its class. The second is one
lemma for each way the parts of an event follow each other and one for each level of operation, in the order in which
they call each other. -/

namespace Sys2Proof.Machine

/-! ### The latched configuration -/

theorem step_reset {s t : State} {member : MemberTable} {intermix : Bool} {rest : List HostAction}
    (hi : s.input = .reset member intermix :: rest) (h : step s = .next t) :
    t = (s.takeInput rest).applyReset member intermix := by
  rw [step, takeAction, hi] at h
  cases h; rfl

/-- An event leaves the latched table and policy as they are (R65). -/
theorem step_event_keeps_config {s t : State} {e : Event} {rest : List HostAction}
    (hi : s.input = .event e :: rest) (h : step s = .next t) : t.member = s.member ∧ t.intermix = s.intermix := by
  rcases step_eq_next h with ⟨b, ts, rest, -, -, -, hb⟩ | ⟨rest, -, -, rfl⟩ | ⟨err, rest, -, -, rfl⟩ |
    ⟨member, intermix, rest, hr, -⟩
  · exact ⟨hb.keeps.member, hb.keeps.intermix⟩
  · exact ⟨rfl, rfl⟩
  · exact ⟨rfl, rfl⟩
  · rw [hi] at hr; cases hr

/-- Settles O59: reset takes its operands, and everything an event does keeps the configuration. -/
theorem configurationIsLatchedForTheRun : Obligations.ConfigurationIsLatchedForTheRun := by
  intro s t rest h
  refine ⟨fun member intermix hi => ?_, fun e hi => step_event_keeps_config hi h⟩
  rw [step_reset hi h]
  exact ⟨rfl, rfl⟩

/-! ### Answers within the rules -/

/-- The answer is neither the read of an unwritten entry (R52, I3) nor the refusal of an operation outside its class. -/
def InRules (r : Result) : Prop := r ≠ .fault .unwrittenEntry ∧ r ≠ .refused .outsideClass

theorem inRules_next (s : State) : InRules (.next s) := ⟨nofun, nofun⟩

theorem whileRunning_inRules {s : State} {c : Bool} {k : Result} (hc : c = true) (hk : InRules k) :
    InRules (whileRunning s c k) := by
  subst hc
  rcases whileRunning_cases s true k with ⟨-, -, h⟩ | ⟨-, hc, -⟩ | ⟨-, h⟩
  · rwa [h]
  · cases hc
  · rw [h]; exact ⟨nofun, nofun⟩

theorem andThen_inRules {r : Result} {k : State → Result} (hr : InRules r) (hk : ∀ u, r = .next u → InRules (k u)) :
    InRules (andThen r k) := by
  cases r with
  | next u =>
    by_cases hu : u.status = .running
    · rw [andThen_next_running hu]; exact hk u rfl
    · rw [andThen_next_ended hu]; exact hr
  | fault f => exact hr
  | refused f => exact hr

theorem withEntry_inRules {s : State} {j : Nat} {k : Entry → Result} (hj : (s.memRead j).isSome = true)
    (hk : ∀ e, InRules (k e)) : InRules (withEntry s j k) := by
  obtain ⟨e, he⟩ := Option.isSome_iff_exists.mp hj
  rw [withEntry_some he]
  exact hk e

/-! ### The sender and the demultiplexer -/

theorem execSend_inRules (id : ChanId) (d : Byte) (off : Offset) (ts : Timestamp) (s : State) :
    InRules (execSend id d off ts s) := by
  refine whileRunning_inRules rfl ?_
  split
  · exact inRules_next s
  · split
    · exact ⟨nofun, nofun⟩
    · exact inRules_next _
    · exact whileRunning_inRules rfl (inRules_next _)

/-- A delayed ID has an old channel to give its byte to (R79, R152). -/
theorem curId_isSome_of_idDelay {s : State} {i : HalfIndex} {lo : Entry} (h : s.halfClassOf i lo = .idDelay) :
    s.curId.isSome = true := by
  rw [State.halfClassOf, halfClass] at h
  split at h
  · split at h
    · split at h
      · assumption
      · cases h
    · cases h
  · cases h

/-- The walk runs the class the half-word has (R79, R150). -/
theorem runHalfClass_inRules (i : HalfIndex) (lo hi : Entry) (s : State) :
    InRules (runHalfClass (s.halfClassOf i lo) i lo hi s) := by
  cases hc : s.halfClassOf i lo with
  | idImm =>
    exact whileRunning_inRules (beq_iff_eq.mpr hc)
      (andThen_inRules (execSend_inRules ..) fun _ _ => inRules_next _)
  | idDelay =>
    refine whileRunning_inRules (beq_iff_eq.mpr hc) ?_
    obtain ⟨c, hs⟩ := Option.isSome_iff_exists.mp (curId_isSome_of_idDelay hc)
    rw [hs]
    exact andThen_inRules (execSend_inRules ..) fun _ _ => inRules_next _
  | idOrphan => exact whileRunning_inRules (beq_iff_eq.mpr hc) (inRules_next _)
  | data =>
    refine whileRunning_inRules (beq_iff_eq.mpr hc) ?_
    split
    · exact inRules_next _
    · exact andThen_inRules (execSend_inRules ..) fun _ _ => execSend_inRules ..

theorem demuxHalf_inRules {s : State} (hf : s.full) (i : HalfIndex) : InRules (demuxHalf i s) := by
  have hlt := i.lt_seven
  exact withEntry_inRules (hf.2 (2 * i.val) (by omega)) fun lo =>
    withEntry_inRules (hf.2 (2 * i.val + 1) (by omega)) fun hi => runHalfClass_inRules i lo hi s

theorem demuxLast_inRules {s : State} (hf : s.full) : InRules (demuxLast s) := by
  refine withEntry_inRules (hf.2 14 (by omega)) fun lo => withEntry_inRules (hf.2 15 (by omega)) fun hi => ?_
  split
  · next hb => exact whileRunning_inRules hb (inRules_next _)
  · next hb =>
    refine whileRunning_inRules (by simpa using hb) ?_
    split
    · exact inRules_next _
    · exact execSend_inRules ..

/-- Every half-word leaves the buffer full for the next one. -/
theorem demuxWalk_inRules {s : State} (hf : s.full) (is : List HalfIndex) : InRules (demuxWalk is s) := by
  induction is generalizing s with
  | nil => exact demuxLast_inRules hf
  | cons i is ih =>
    refine andThen_inRules (demuxHalf_inRules hf i) fun u hu => ?_
    obtain ⟨-, -, ps, -, -, he, -⟩ := demuxHalf_emits hu
    exact ih (full_congr he.buf he.fill hf)

theorem execDemux_inRules {s : State} (hf : s.full) : InRules (execDemux s) := by
  refine whileRunning_inRules (beq_iff_eq.mpr hf.1) (withEntry_inRules (hf.2 15 (by omega)) fun e => ?_)
  refine andThen_inRules (whileRunning_inRules rfl (inRules_next _)) fun u hu => ?_
  obtain ⟨-, -, hu⟩ := whileRunning_eq_next.mp hu
  cases hu
  have hf' : (s.setAuxVec (auxVector e.byte)).full := full_congr rfl rfl hf
  exact demuxWalk_inRules hf' halfIndices

/-! ### The completed frame -/

/-- With every entry written the rescan reads only written entries (R128). -/
theorem rescan_candidates_inRules {s : State} (hf : s.full) : InRules (rescan candidates s) := by
  have hread (j : Nat) (hj : j ∈ candidates) : (s.memRead j).isSome = true := by
    have hlt : 1 ≤ j ∧ j < 1 + 15 := List.mem_range'_1.mp hj
    exact hf.2 j (by omega)
  obtain ⟨t, ht⟩ := rescan_runs hread
  rw [ht]
  exact inRules_next t

theorem runFrameClass_inRules {s : State} {c : FrameClass} (hf : s.full) (hc : s.frameIs c = true) :
    InRules (runFrameClass c s) := by
  have h0 : (s.memRead 0).isSome = true := hf.2 0 (by omega)
  cases c with
  | searchValid =>
    exact whileRunning_inRules hc (withEntry_inRules h0 fun e =>
      andThen_inRules (execDemux_inRules (full_congr rfl rfl hf)) fun _ _ => inRules_next _)
  | searchInvalid => exact whileRunning_inRules hc (rescan_candidates_inRules (full_congr rfl rfl hf))
  | valid => exact whileRunning_inRules hc (andThen_inRules (execDemux_inRules hf) fun _ _ => inRules_next _)
  | invalidTolerated => exact whileRunning_inRules hc (withEntry_inRules h0 fun e => inRules_next _)
  | invalidResume => exact whileRunning_inRules hc (withEntry_inRules h0 fun e => inRules_next _)

/-- Outside the syncing modes a completed frame has a row (R126). -/
theorem frameClass_of_not_syncing {m : Mode} (hm : m = .searching ∨ m = .framing) (ok : Bool) (consec : Counter) :
    ∃ c, frameClass m ok consec = some c := by
  rcases hm with rfl | rfl <;> exact ⟨_, rfl⟩

theorem execFrameComplete_inRules {s : State} (hf : s.full) (hr : s.status = .running)
    (hm : s.mode = .searching ∨ s.mode = .framing) : InRules (execFrameComplete s) := by
  obtain ⟨ok, hok⟩ := Option.isSome_iff_exists.mp (full_frameOk hf)
  obtain ⟨c, hc⟩ := frameClass_of_not_syncing hm ok s.consec
  rw [execFrameComplete_eq hr hf.1 hok hc]
  exact runFrameClass_inRules (full_congr rfl rfl hf) (by simpa using (frameIs_iff hf.1 hok).mpr hc)

/-! ### The classes of a byte -/

/-- The sixteenth byte fills the buffer. -/
theorem State.Counted.append_full {s : State} (h : s.Counted) (e : Entry) (hn : s.n.val = 15) : (s.append e).full := by
  refine ⟨by rw [State.append_n]; omega, fun j hj => ?_⟩
  rcases Nat.lt_or_ge j s.n.val with hlt | hge
  · rw [append_memRead_lt hlt]; exact h.held.written j hlt
  · obtain rfl : j = s.n.val := by omega
    rw [append_memRead_self (by omega)]; rfl

theorem execFrameByte_inRules {s : State} {b : Byte} (h : s.Counted) (ts : Timestamp)
    (hc : s.matchClassOf b = .frameByte) : InRules (execFrameByte b ts s) := by
  have hlt : s.n.val < 16 := Nat.lt_succ_of_le h.fill
  refine whileRunning_inRules (Bool.and_eq_true_iff.mpr ⟨beq_iff_eq.mpr hc, decide_eq_true hlt⟩) ?_
  simp only
  split
  · next h16 =>
    have hn : s.n.val = 15 := by rw [State.append_n] at h16; simp only [Config.frameSize] at h16; omega
    exact execFrameComplete_inRules (h.append_full _ hn) h.running (matchClass_frameByte.mp hc).1
  · exact inRules_next _

/-- The byte check's answer selects the driver's row the byte has (R123). -/
theorem execNoSync_inRules {s : State} {b : Byte} (ts : Timestamp) (hc : s.matchClassOf b = .noSync) :
    InRules (execNoSync b ts s) := by
  obtain ⟨hm, hn, hb⟩ := matchClass_noSync.mp hc
  have hdriver {t : State} {c : DriverClass} (ht : t.n = s.n) (hd : driverClass t.mode t.member b = some c) :
      t.driverIs b c = true := by
    have hn' : s.n = 0 := Fin.ext hn
    simp [State.driverIs, ht, hn', hd]
  refine whileRunning_inRules (beq_iff_eq.mpr hc) ?_
  rcases hm with hm | hm
  · rw [hm]
    refine andThen_inRules (whileRunning_inRules rfl (inRules_next _)) fun u hu => ?_
    obtain ⟨-, -, hu⟩ := whileRunning_eq_next.mp hu
    cases hu
    cases hp : passesByteCheck s.member b with
    | true => exact whileRunning_inRules (hdriver rfl (by simp [driverClass, hb, hm, hp])) (inRules_next _)
    | false => exact whileRunning_inRules (hdriver rfl (by simp [driverClass, hb, hm, hp])) (inRules_next _)
  · rw [hm]
    exact whileRunning_inRules (hdriver rfl (by simp [driverClass, hb, hm])) (inRules_next _)

/-- A byte of class `SYNC_START` is the first sync byte, in a mode a match can start from (R100). -/
theorem matchClass_syncStart {m : Mode} {n : Nat} {b : Byte} (h : matchClass m n b = .syncStart) :
    b = syncFirst ∧ m.startSync.isSome = true := by
  cases m <;> grind [matchClass, Mode.startSync]

/-- A byte of class `SYNC_ADVANCE` comes in a mode a match can go on from (R101). -/
theorem matchClass_syncAdvance {m : Mode} {n : Nat} {b : Byte} (h : matchClass m n b = .syncAdvance) :
    m.advanceSync.isSome = true := by
  cases m <;> grind [matchClass, Mode.advanceSync]

/-- Only the third matched byte has no next count (R101, R102). -/
theorem syncCount_eq_three {k : SyncCount} (h : k.next.isSome = false) : k = .three := by
  cases k with
  | one => cases h
  | two => cases h
  | three => rfl

/-- A byte that completes a match from `Searching` comes after three matched bytes (R102). -/
theorem matchClass_syncCompleteS {m : Mode} {n : Nat} {b : Byte} (h : matchClass m n b = .syncCompleteS) :
    m = .searchingSyncing .three := by
  cases m <;> grind [matchClass, syncCount_eq_three]

/-- A byte that completes a match from `Framing` comes after three matched bytes (R103). -/
theorem matchClass_syncCompleteF {m : Mode} {n : Nat} {b : Byte} (h : matchClass m n b = .syncCompleteF) :
    m = .framingSyncing .three := by
  cases m <;> grind [matchClass, syncCount_eq_three]

/-- A byte's class is one its state has a rule for (R80, R110). -/
theorem runMatchClass_inRules {s : State} (h : s.Counted) (b : Byte) (ts : Timestamp) :
    InRules (runMatchClass (s.matchClassOf b) b ts s) := by
  cases hc : s.matchClassOf b with
  | syncStart =>
    obtain ⟨rfl, hm⟩ := matchClass_syncStart hc
    obtain ⟨m, hm⟩ := Option.isSome_iff_exists.mp hm
    refine whileRunning_inRules (beq_iff_eq.mpr hc) ?_
    rw [hm]
    exact inRules_next _
  | syncAdvance =>
    obtain ⟨m, hm⟩ := Option.isSome_iff_exists.mp (matchClass_syncAdvance hc)
    refine whileRunning_inRules rfl ?_
    rw [hm]
    exact inRules_next _
  | syncCompleteS => exact whileRunning_inRules (beq_iff_eq.mpr (matchClass_syncCompleteS hc)) (inRules_next _)
  | syncCompleteF => exact whileRunning_inRules (beq_iff_eq.mpr (matchClass_syncCompleteF hc)) (inRules_next _)
  | syncAbortS => exact whileRunning_inRules (beq_iff_eq.mpr hc) (inRules_next _)
  | syncDerail => exact whileRunning_inRules (beq_iff_eq.mpr hc) (inRules_next _)
  | noSync => exact execNoSync_inRules ts hc
  | frameByte => exact execFrameByte_inRules h ts hc

/-! ### A step -/

theorem execByte_inRules {s : State} (h : s.Inv) (b : Byte) (ts : Timestamp) : InRules (execByte b ts s) := by
  by_cases hr : s.status = .running
  · by_cases ho : s.offset = BitVec.allOnes Config.offsetBits
    · rw [execByte_at_offset_limit b ts hr ho]
      exact ⟨nofun, nofun⟩
    · rw [execByte_eq hr ho]
      exact runMatchClass_inRules (countByte_counted h hr ho) b ts
  · rw [execByte, whileRunning, if_neg hr]
    exact ⟨nofun, nofun⟩

theorem exec_event_inRules {s : State} (h : s.Inv) (e : Event) : InRules (exec e.instr s) := by
  cases e with
  | byte b ts => exact execByte_inRules h b ts
  | endStream => exact whileRunning_inRules rfl (inRules_next _)
  | srcErr err => exact whileRunning_inRules rfl (inRules_next _)

/-- Settles O58: each operation an event runs finds what its class asks for, and the entries it reads written. -/
theorem noStepReadsAnUnwrittenEntry : Obligations.NoStepReadsAnUnwrittenEntry := by
  intro s h
  show InRules (step s)
  rw [step, takeAction]
  split
  · next e rest hi => exact exec_event_inRules (s := s.takeInput rest) { h with } e
  · exact inRules_next _
  · split <;> exact ⟨nofun, nofun⟩

end Sys2Proof.Machine
end

section
/-! PROOFS. The encoding (30_encoding.md). The decoder picks an operation by the class functions (`matchClass`,
`driverClass`, `frameClass`, `halfClass`); the opcode table's `fields` say by conditions of their own where an operation
may stand (`Instr.admits`). Here: when a byte or half-word is of each class, as the tables R79 and R80 say it, and the
bytes of a class's operation. -/

open Sys2Proof.Machine

namespace Sys2Proof

/-! ### When a byte or a half-word is of a class -/

theorem SyncCount.expected_one : SyncCount.one.expected = 0xFF := rfl
theorem SyncCount.expected_two : SyncCount.two.expected = 0xFF := rfl
theorem SyncCount.expected_three : SyncCount.three.expected = 0x7F := rfl
theorem SyncCount.next_three : SyncCount.three.next = none := rfl

/-- There are three syncing counts (R21). -/
theorem SyncCount.exists_iff {p : SyncCount → Prop} : (∃ k, p k) ↔ p .one ∨ p .two ∨ p .three := by
  constructor
  · rintro ⟨_ | _ | _, h⟩
    · exact .inl h
    · exact .inr (.inl h)
    · exact .inr (.inr h)
  · rintro (h | h | h) <;> exact ⟨_, h⟩

/-- The modes in which a match can go on without completing (R101). -/
theorem Mode.advanceSync_isSome {m : Mode} : m.advanceSync.isSome = true ↔
    m = .searchingSyncing .one ∨ m = .searchingSyncing .two ∨ m = .framingSyncing .one ∨ m = .framingSyncing .two := by
  rcases m with _ | ⟨_ | _ | _⟩ | _ | ⟨_ | _ | _⟩ <;> decide

/-- A mode that is not syncing has no sync byte matched (R21). -/
theorem Mode.of_not_syncing {m : Mode} (h : (!m.syncing) = true) : m = .searching ∨ m = .framing := by
  cases m with
  | searching => exact .inl rfl
  | framing => exact .inr rfl
  | searchingSyncing k | framingSyncing k => cases h

section
variable {m : Mode} {n : Nat} {b : Byte}

theorem matchClass_eq_syncStart :
    matchClass m n b = .syncStart ↔ (m = .searching ∨ m = .framing) ∧ n = 0 ∧ b = syncFirst := by
  cases m <;> grind [matchClass]

theorem matchClass_eq_syncAdvance : matchClass m n b = .syncAdvance ↔
    (m = .searchingSyncing .one ∨ m = .searchingSyncing .two ∨ m = .framingSyncing .one ∨ m = .framingSyncing .two) ∧
      b = 0xFF := by
  constructor
  · intro h
    cases m with
    | searching | framing => grind [matchClass]
    | searchingSyncing k | framingSyncing k =>
      cases k <;> grind [matchClass, SyncCount.expected_one, SyncCount.expected_two, SyncCount.next_three]
  · rintro ⟨rfl | rfl | rfl | rfl, rfl⟩ <;> rfl

theorem matchClass_eq_syncCompleteS :
    matchClass m n b = .syncCompleteS ↔ m = .searchingSyncing .three ∧ b = 0x7F := by
  constructor
  · intro h
    obtain rfl := matchClass_syncCompleteS h
    grind [matchClass, SyncCount.expected_three]
  · rintro ⟨rfl, rfl⟩; rfl

theorem matchClass_eq_syncCompleteF :
    matchClass m n b = .syncCompleteF ↔ m = .framingSyncing .three ∧ b = 0x7F := by
  constructor
  · intro h
    obtain rfl := matchClass_syncCompleteF h
    grind [matchClass, SyncCount.expected_three]
  · rintro ⟨rfl, rfl⟩; rfl

theorem matchClass_eq_syncAbortS :
    matchClass m n b = .syncAbortS ↔ ∃ k, m = .searchingSyncing k ∧ b ≠ k.expected := by
  cases m <;> grind [matchClass]

theorem matchClass_eq_syncDerail :
    matchClass m n b = .syncDerail ↔ ∃ k, m = .framingSyncing k ∧ b ≠ k.expected := by
  cases m <;> grind [matchClass]

variable {member : MemberTable}

/-- The byte check in the numbers of R140: the ID is the byte halved. -/
theorem passesByteCheck_iff_plausible : passesByteCheck member b = true ↔ plausible member b := by
  simp [passesByteCheck, plausible, ctrlBit, isMember, idField_toNat]

theorem driverClass_eq_candAccept : driverClass m member b = some .candAccept ↔
    m = .searching ∧ b ≠ syncFirst ∧ passesByteCheck member b = true := by
  cases m <;> grind [driverClass]

theorem driverClass_eq_candDiscard : driverClass m member b = some .candDiscard ↔
    m = .searching ∧ b ≠ syncFirst ∧ ¬ passesByteCheck member b = true := by
  cases m <;> grind [driverClass]

theorem driverClass_eq_frameFirst : driverClass m member b = some .frameFirst ↔ m = .framing ∧ b ≠ syncFirst := by
  cases m <;> grind [driverClass]

end

section
variable {ctrl aux cv : Bool}

theorem halfClass_eq_idImm : halfClass ctrl aux cv = .idImm ↔ ctrl = true ∧ aux = false := by
  revert ctrl aux cv; decide

theorem halfClass_eq_idDelay : halfClass ctrl aux cv = .idDelay ↔ ctrl = true ∧ aux = true ∧ cv = true := by
  revert ctrl aux cv; decide

theorem halfClass_eq_idOrphan : halfClass ctrl aux cv = .idOrphan ↔ ctrl = true ∧ aux = true ∧ cv = false := by
  revert ctrl aux cv; decide

theorem halfClass_eq_data : halfClass ctrl aux cv = .data ↔ ctrl = false := by
  revert ctrl aux cv; decide

end

/-! ### The operation of a class, and its bytes -/

/-- `withWord64_word64Bytes` where nothing follows the word. -/
@[simp] theorem withWord64_word64Bytes_nil (v : BitVec 64) (k : BitVec 64 → List Byte → Except Reject Instr) :
    withWord64 (word64Bytes v) k = k v [] := by
  simpa using withWord64_word64Bytes v [] k

/-- The operation the matcher's class stands for, given the timestamp its byte came with (`MatchClass.decode`). -/
def MatchClass.instr (c : MatchClass) (b : Byte) (ts : Timestamp) : Instr :=
  match c with
  | .syncStart => .syncStart
  | .syncAdvance => .syncAdvance
  | .syncCompleteS => .syncCompleteS
  | .syncCompleteF => .syncCompleteF
  | .syncAbortS => .syncAbortS b
  | .syncDerail => .syncDerail b
  | .noSync => .noSync b ts
  | .frameByte => .frameByte b ts

/-- The bytes after the classed one that belong to the class's operation: a byte handed on keeps its timestamp. -/
def MatchClass.operands (c : MatchClass) (ts : Timestamp) : List Byte :=
  match c with
  | .noSync | .frameByte => word64Bytes ts
  | _ => []

theorem MatchClass.decode_operands (c : MatchClass) (b : Byte) (ts : Timestamp) (rest : List Byte) :
    c.decode b (c.operands ts ++ rest) = .ok (c.instr b ts) := by
  cases c <;> simp [MatchClass.decode, MatchClass.operands, MatchClass.instr]

theorem MatchClass.decode_word64Bytes (c : MatchClass) (b : Byte) (ts : Timestamp) :
    c.decode b (word64Bytes ts) = .ok (c.instr b ts) := by
  cases c <;> simp [MatchClass.decode, MatchClass.instr]

theorem MatchClass.decode_eq_ok {c : MatchClass} {b : Byte} {w : List Byte} {i : Instr} (h : c.decode b w = .ok i) :
    ∃ ts rest, i = c.instr b ts ∧ w = c.operands ts ++ rest := by
  cases c with
  | noSync | frameByte =>
    obtain ⟨ts, rest, rfl, hi⟩ := withWord64_eq_ok h
    cases hi
    exact ⟨ts, rest, rfl, rfl⟩
  | _ =>
    cases h
    exact ⟨0, w, rfl, rfl⟩

/-- An operation's encoding begins with the byte that was classed: the sync classes that do not carry it know it. -/
theorem encode_matchClass_instr {m : Mode} {n : Nat} {b : Byte} {c : MatchClass} (ts : Timestamp)
    (h : matchClass m n b = c) : encode (c.instr b ts) = b :: c.operands ts := by
  cases c with
  | syncStart => obtain ⟨-, -, rfl⟩ := matchClass_eq_syncStart.mp h; rfl
  | syncAdvance => obtain ⟨-, rfl⟩ := matchClass_eq_syncAdvance.mp h; rfl
  | syncCompleteS => obtain ⟨-, rfl⟩ := matchClass_eq_syncCompleteS.mp h; rfl
  | syncCompleteF => obtain ⟨-, rfl⟩ := matchClass_eq_syncCompleteF.mp h; rfl
  | syncAbortS | syncDerail | noSync | frameByte => rfl

theorem encode_driverClass_instr (d : DriverClass) (b : Byte) (ts : Timestamp) :
    encode (d.instr b ts) = b :: word64Bytes ts := by
  cases d <;> rfl

theorem encode_frameClass_instr (f : FrameClass) : encode f.instr = [] := by
  cases f <;> rfl

theorem encode_halfClass_instr (c : HalfClass) (i : HalfIndex) (lo hi : Entry) :
    encode (c.instr i lo hi) = halfWordBytes lo hi := by
  cases c <;> rfl

end Sys2Proof
end

section
/-! PROOFS. The round trip between bytes and operations. `Classed` says which operations the class functions pick in a
context. It holds exactly where the opcode table admits the operation (`classed_of_admits`, `Classed.wellFormed_admits`)
and exactly of what the decoder reads (`classed_of_decode`, `Classed.decode_encode`); O1 and O2 put the four together. -/

open Sys2Proof.Machine

namespace Sys2Proof

/-! ### The operations a context's class functions pick -/

/-- Operation `i` is the one that the class functions of context `c` pick for some bytes there. -/
inductive Classed : Ctx → Instr → Prop where
  | event (e : Event) : Classed (.port e.kind) e.instr
  | sinkErr (err : ErrValue) : Classed .sink (.sinkErr err)
  | matched {m : Mode} {n : Nat} {b : Byte} (c : MatchClass) (ts : Timestamp) (h : matchClass m n b = c) :
      Classed (.matcher m n) (c.instr b ts)
  | driven {m : Mode} {member : MemberTable} {b : Byte} (d : DriverClass) (ts : Timestamp)
      (h : driverClass m member b = some d) : Classed (.driver m member) (d.instr b ts)
  | byteCheck (b : Byte) : Classed .byteValidator (.byteCheck b)
  | frameComplete : Classed .bufferFull .frameComplete
  | frameCheck : Classed .frameValidator .frameCheck
  | checked {m : Mode} {ok : Bool} {consec : Counter} (f : FrameClass) (h : frameClass m ok consec = some f) :
      Classed (.verdict m ok consec) f.instr
  | demux : Classed .demuxEntry .demux
  | aux (b : Byte) : Classed .auxByte (.aux b)
  | half {i : HalfIndex} {a : AuxVector} {cv : Bool} {lo : Entry} (c : HalfClass) (hi : Entry)
      (h : halfClass (ctrlBit lo.byte) (auxBit a i) cv = c) : Classed (.halfWord i a cv) (c.instr i lo hi)
  | lastId {lo : Entry} (x : Byte) (h : ctrlBit lo.byte = true) : Classed .lastHalfWord (.hwLastId lo x)
  | lastData {lo : Entry} (x : Byte) (h : ctrlBit lo.byte = false) : Classed .lastHalfWord (.hwLastData lo x)
  | send (id : ChanId) (datum : Byte) (off : Offset) (ts : Timestamp) : Classed .nullFilter (.send id datum off ts)

/-- The decoder reads an operation back from its encoding, in a context that picks it. -/
theorem Classed.decode_encode {c : Ctx} {i : Instr} (h : Classed c i) (rest : List Byte) :
    decode c (encode i ++ rest) = .ok i := by
  cases h with
  | event e => cases e <;> simp [Event.kind, Event.instr, encode, decode]
  | sinkErr err => simp [encode, decode]
  | matched c ts h =>
    rw [encode_matchClass_instr ts h]
    simp [decode, h, MatchClass.decode_operands]
  | driven d ts h => simp [encode_driverClass_instr, decode, h]
  | byteCheck b => rfl
  | frameComplete => rfl
  | frameCheck => rfl
  | checked f h => simp [decode, h]
  | demux => rfl
  | aux b => rfl
  | half c hi h => simp [encode_halfClass_instr, decode, h]
  | lastId x h => simp [encode, decode, h]
  | lastData x h => simp [encode, decode, h]
  | send id datum off ts =>
    rw [encode, List.append_assoc, List.append_assoc]
    simp only [decode, List.cons_append, List.nil_append, withByte_cons, withWord64_word64Bytes,
      if_pos (zeroExtend_id_lt id), extract_zeroExtend_id]

/-- What the decoder reads is picked by the context, and the bytes read are its encoding. -/
theorem classed_of_decode {c : Ctx} {w : List Byte} {i : Instr} (h : decode c w = .ok i) :
    Classed c i ∧ ∃ rest, w = encode i ++ rest := by
  cases c with
  | port k =>
    cases k with
    | byte =>
      obtain ⟨b, w₁, rfl, h₁⟩ := withByte_eq_ok h
      obtain ⟨ts, rest, rfl, h₂⟩ := withWord64_eq_ok h₁
      cases h₂
      exact ⟨.event (.byte b ts), rest, rfl⟩
    | endStream =>
      cases h
      exact ⟨.event .endStream, w, rfl⟩
    | srcErr =>
      obtain ⟨err, rest, rfl, h₁⟩ := withWord64_eq_ok h
      cases h₁
      exact ⟨.event (.srcErr err), rest, rfl⟩
  | sink =>
    obtain ⟨err, rest, rfl, h₁⟩ := withWord64_eq_ok h
    cases h₁
    exact ⟨.sinkErr err, rest, rfl⟩
  | matcher m n =>
    obtain ⟨b, w₁, rfl, h₁⟩ := withByte_eq_ok h
    obtain ⟨ts, rest, rfl, rfl⟩ := MatchClass.decode_eq_ok h₁
    exact ⟨.matched _ ts rfl, rest, by rw [encode_matchClass_instr ts rfl]; rfl⟩
  | driver m member =>
    obtain ⟨b, w₁, rfl, h₁⟩ := withByte_eq_ok h
    obtain ⟨ts, rest, rfl, h₂⟩ := withWord64_eq_ok h₁
    split at h₂
    · next d hd =>
      cases h₂
      exact ⟨.driven d ts hd, rest, by rw [encode_driverClass_instr]; rfl⟩
    · cases h₂
  | byteValidator =>
    obtain ⟨b, rest, rfl, h₁⟩ := withByte_eq_ok h
    cases h₁
    exact ⟨.byteCheck b, rest, rfl⟩
  | bufferFull => cases h; exact ⟨.frameComplete, w, rfl⟩
  | frameValidator => cases h; exact ⟨.frameCheck, w, rfl⟩
  | verdict m ok consec =>
    rw [decode] at h
    split at h
    · next f hf =>
      cases h
      exact ⟨.checked f hf, w, by rw [encode_frameClass_instr]; rfl⟩
    · cases h
  | demuxEntry => cases h; exact ⟨.demux, w, rfl⟩
  | auxByte =>
    obtain ⟨b, rest, rfl, h₁⟩ := withByte_eq_ok h
    cases h₁
    exact ⟨.aux b, rest, rfl⟩
  | halfWord k a cv =>
    rw [decode] at h
    obtain ⟨lo, hi, rest, rfl, h₁⟩ := withHalfWord_eq_ok h
    cases h₁
    exact ⟨.half _ hi rfl, rest, by rw [encode_halfClass_instr]⟩
  | lastHalfWord =>
    rw [decode] at h
    obtain ⟨lo, x, rest, rfl, h₁⟩ := withLastHalfWord_eq_ok h
    split at h₁
    · next hc =>
      cases h₁
      exact ⟨.lastId x hc, rest, rfl⟩
    · next hc =>
      cases h₁
      exact ⟨.lastData x (Bool.eq_false_iff.mpr hc), rest, rfl⟩
  | nullFilter =>
    obtain ⟨id, w₁, rfl, h₁⟩ := withByte_eq_ok h
    obtain ⟨datum, w₂, rfl, h₂⟩ := withByte_eq_ok h₁
    obtain ⟨off, w₃, rfl, h₃⟩ := withWord64_eq_ok h₂
    obtain ⟨ts, rest, rfl, h₄⟩ := withWord64_eq_ok h₃
    split at h₄
    · next hid =>
      cases h₄
      exact ⟨.send _ datum off ts, rest, by simp [encode, zeroExtend_extract_id hid]⟩
    · cases h₄

/-! ### The opcode table's conditions are the class functions' -/

/-- A completed frame's row (R126) is picked exactly where the table admits it. -/
theorem frameClass_eq_some_iff_admits {m : Mode} {ok : Bool} {consec : Counter} {f : FrameClass} :
    frameClass m ok consec = some f ↔ f.instr.admits (.verdict m ok consec) = true := by
  cases m with
  | searching => cases ok <;> cases f <;> simp [frameClass, Instr.admits, FrameClass.instr]
  | framing => cases ok <;> cases f <;> grind [frameClass, Instr.admits, FrameClass.instr]
  | searchingSyncing k | framingSyncing k => cases f <;> simp [frameClass, Instr.admits, FrameClass.instr]

/-- The matcher's rows of R80. -/
theorem classed_of_admits_matcher {m : Mode} {n : Nat} {i : Instr} (h : i.admits (.matcher m n) = true) :
    Classed (.matcher m n) i := by
  cases i with
  | syncStart =>
    simp only [Instr.admits, Bool.and_eq_true, beq_iff_eq] at h
    obtain ⟨hm, hn⟩ := h
    exact .matched .syncStart 0 (matchClass_eq_syncStart.mpr ⟨Mode.of_not_syncing hm, hn, rfl⟩)
  | syncAdvance =>
    exact .matched .syncAdvance 0 (matchClass_eq_syncAdvance.mpr ⟨Mode.advanceSync_isSome.mp h, rfl⟩)
  | syncCompleteS =>
    obtain rfl := eq_of_beq h
    exact .matched .syncCompleteS 0 (matchClass_eq_syncCompleteS.mpr ⟨rfl, rfl⟩)
  | syncCompleteF =>
    obtain rfl := eq_of_beq h
    exact .matched .syncCompleteF 0 (matchClass_eq_syncCompleteF.mpr ⟨rfl, rfl⟩)
  | syncAbortS b =>
    cases m with
    | searchingSyncing k => exact .matched .syncAbortS 0 (matchClass_eq_syncAbortS.mpr ⟨k, rfl, bne_iff_ne.mp h⟩)
    | _ => cases h
  | syncDerail b =>
    cases m with
    | framingSyncing k => exact .matched .syncDerail 0 (matchClass_eq_syncDerail.mpr ⟨k, rfl, bne_iff_ne.mp h⟩)
    | _ => cases h
  | noSync b ts =>
    simp only [Instr.admits, Bool.and_eq_true, beq_iff_eq, bne_iff_ne] at h
    obtain ⟨⟨hm, hn⟩, hb⟩ := h
    exact .matched .noSync ts (matchClass_noSync.mpr ⟨Mode.of_not_syncing hm, hn, hb⟩)
  | frameByte b ts =>
    simp only [Instr.admits, Bool.and_eq_true, bne_iff_ne] at h
    obtain ⟨hm, hn⟩ := h
    exact .matched .frameByte ts (matchClass_frameByte.mpr ⟨Mode.of_not_syncing hm, hn⟩)
  | _ => cases h

/-- The driver's rows of R80. -/
theorem classed_of_admits_driver {m : Mode} {member : MemberTable} {i : Instr}
    (h : i.admits (.driver m member) = true) : Classed (.driver m member) i := by
  cases i with
  | candAccept b ts =>
    simp only [Instr.admits, Bool.and_eq_true, beq_iff_eq, bne_iff_ne] at h
    obtain ⟨⟨hm, hb⟩, hp⟩ := h
    exact .driven .candAccept ts (driverClass_eq_candAccept.mpr ⟨hm, hb, hp⟩)
  | candDiscard b ts =>
    simp only [Instr.admits, Bool.and_eq_true, Bool.not_eq_true', beq_iff_eq, bne_iff_ne] at h
    obtain ⟨⟨hm, hb⟩, hp⟩ := h
    exact .driven .candDiscard ts (driverClass_eq_candDiscard.mpr ⟨hm, hb, Bool.eq_false_iff.mp hp⟩)
  | frameFirst b ts =>
    simp only [Instr.admits, Bool.and_eq_true, beq_iff_eq, bne_iff_ne] at h
    exact .driven .frameFirst ts (driverClass_eq_frameFirst.mpr h)
  | _ => cases h

/-- The rows of a completed frame (R126). -/
theorem classed_of_admits_verdict {m : Mode} {ok : Bool} {consec : Counter} {i : Instr}
    (h : i.admits (.verdict m ok consec) = true) : Classed (.verdict m ok consec) i := by
  cases i with
  | searchFrameValid => exact .checked .searchValid (frameClass_eq_some_iff_admits.mpr h)
  | searchFrameInvalid => exact .checked .searchInvalid (frameClass_eq_some_iff_admits.mpr h)
  | frameValid => exact .checked .valid (frameClass_eq_some_iff_admits.mpr h)
  | frameInvalidTolerated => exact .checked .invalidTolerated (frameClass_eq_some_iff_admits.mpr h)
  | frameInvalidResume => exact .checked .invalidResume (frameClass_eq_some_iff_admits.mpr h)
  | _ => cases h

/-- The rows of half-words 0 to 6 (R79). -/
theorem classed_of_admits_halfWord {k : HalfIndex} {a : AuxVector} {cv : Bool} {i : Instr}
    (h : i.admits (.halfWord k a cv) = true) : Classed (.halfWord k a cv) i := by
  cases i with
  | hwIdImm j lo hi =>
    simp only [Instr.admits, Bool.and_eq_true, Bool.not_eq_true', beq_iff_eq] at h
    obtain ⟨⟨rfl, hc⟩, ha⟩ := h
    exact .half .idImm hi (halfClass_eq_idImm.mpr ⟨hc, ha⟩)
  | hwIdDelay j lo hi =>
    simp only [Instr.admits, Bool.and_eq_true, beq_iff_eq] at h
    obtain ⟨⟨⟨rfl, hc⟩, ha⟩, hv⟩ := h
    exact .half .idDelay hi (halfClass_eq_idDelay.mpr ⟨hc, ha, hv⟩)
  | hwIdOrphan j lo hi =>
    simp only [Instr.admits, Bool.and_eq_true, Bool.not_eq_true', beq_iff_eq] at h
    obtain ⟨⟨⟨rfl, hc⟩, ha⟩, hv⟩ := h
    exact .half .idOrphan hi (halfClass_eq_idOrphan.mpr ⟨hc, ha, hv⟩)
  | hwData j lo hi =>
    simp only [Instr.admits, Bool.and_eq_true, Bool.not_eq_true', beq_iff_eq] at h
    obtain ⟨rfl, hc⟩ := h
    exact .half .data hi (halfClass_eq_data.mpr hc)
  | _ => cases h

/-- An operation that the opcode table admits in a context is one that the context's class functions pick. -/
theorem classed_of_admits {c : Ctx} {i : Instr} (h : i.admits c = true) : Classed c i := by
  cases c with
  | port k =>
    cases i with
    | byte b ts => obtain rfl := eq_of_beq h; exact .event (.byte b ts)
    | endStream => obtain rfl := eq_of_beq h; exact .event .endStream
    | srcErr err => obtain rfl := eq_of_beq h; exact .event (.srcErr err)
    | _ => cases h
  | sink => cases i with
    | sinkErr err => exact .sinkErr err
    | _ => cases h
  | matcher m n => exact classed_of_admits_matcher h
  | driver m member => exact classed_of_admits_driver h
  | byteValidator => cases i with
    | byteCheck b => exact .byteCheck b
    | _ => cases h
  | bufferFull => cases i with
    | frameComplete => exact .frameComplete
    | _ => cases h
  | frameValidator => cases i with
    | frameCheck => exact .frameCheck
    | _ => cases h
  | verdict m ok consec => exact classed_of_admits_verdict h
  | demuxEntry => cases i with
    | demux => exact .demux
    | _ => cases h
  | auxByte => cases i with
    | aux b => exact .aux b
    | _ => cases h
  | halfWord k a cv => exact classed_of_admits_halfWord h
  | lastHalfWord => cases i with
    | hwLastId lo x => exact .lastId x h
    | hwLastData lo x => exact .lastData x (Bool.not_eq_true' _ ▸ h)
    | _ => cases h
  | nullFilter => cases i with
    | send id datum off ts => exact .send id datum off ts
    | _ => cases h

theorem ctrlBit_of_passesByteCheck {member : MemberTable} {b : Byte} (h : passesByteCheck member b = true) :
    ctrlBit b = true := (Bool.and_eq_true_iff.mp h).1

/-- What the class functions pick meets its row's conditions, on its own bits and on the context (R79, R80, R87). -/
theorem Classed.wellFormed_admits {c : Ctx} {i : Instr} (h : Classed c i) :
    i.wellFormed = true ∧ i.admits c = true := by
  cases h with
  | event e => cases e <;> exact ⟨rfl, rfl⟩
  | matched c ts h =>
    cases c with
    | syncStart => obtain ⟨rfl | rfl, rfl, -⟩ := matchClass_eq_syncStart.mp h <;> exact ⟨rfl, rfl⟩
    | syncAdvance => obtain ⟨rfl | rfl | rfl | rfl, -⟩ := matchClass_eq_syncAdvance.mp h <;> exact ⟨rfl, rfl⟩
    | syncCompleteS => obtain ⟨rfl, -⟩ := matchClass_eq_syncCompleteS.mp h; exact ⟨rfl, rfl⟩
    | syncCompleteF => obtain ⟨rfl, -⟩ := matchClass_eq_syncCompleteF.mp h; exact ⟨rfl, rfl⟩
    | syncAbortS => obtain ⟨k, rfl, hb⟩ := matchClass_eq_syncAbortS.mp h; exact ⟨rfl, bne_iff_ne.mpr hb⟩
    | syncDerail => obtain ⟨k, rfl, hb⟩ := matchClass_eq_syncDerail.mp h; exact ⟨rfl, bne_iff_ne.mpr hb⟩
    | noSync =>
      obtain ⟨rfl | rfl, rfl, hb⟩ := matchClass_noSync.mp h <;> exact ⟨bne_iff_ne.mpr hb, bne_iff_ne.mpr hb⟩
    | frameByte => obtain ⟨rfl | rfl, hn⟩ := matchClass_frameByte.mp h <;> exact ⟨rfl, bne_iff_ne.mpr hn⟩
  | driven d ts h =>
    cases d with
    | candAccept =>
      obtain ⟨rfl, hb, hp⟩ := driverClass_eq_candAccept.mp h
      simp [DriverClass.instr, Instr.wellFormed, Instr.admits, hb, hp, ctrlBit_of_passesByteCheck hp]
    | candDiscard =>
      obtain ⟨rfl, hb, hp⟩ := driverClass_eq_candDiscard.mp h
      simp [DriverClass.instr, Instr.wellFormed, Instr.admits, hb, hp]
    | frameFirst =>
      obtain ⟨rfl, hb⟩ := driverClass_eq_frameFirst.mp h
      exact ⟨bne_iff_ne.mpr hb, bne_iff_ne.mpr hb⟩
  | checked f h => exact ⟨by cases f <;> rfl, frameClass_eq_some_iff_admits.mp h⟩
  | half c hi h =>
    cases c with
    | idImm =>
      obtain ⟨hc, ha⟩ := halfClass_eq_idImm.mp h
      simp [HalfClass.instr, Instr.wellFormed, Instr.admits, hc, ha]
    | idDelay =>
      obtain ⟨hc, ha, rfl⟩ := halfClass_eq_idDelay.mp h
      simp [HalfClass.instr, Instr.wellFormed, Instr.admits, hc, ha]
    | idOrphan =>
      obtain ⟨hc, ha, rfl⟩ := halfClass_eq_idOrphan.mp h
      simp [HalfClass.instr, Instr.wellFormed, Instr.admits, hc, ha]
    | data =>
      have hc := halfClass_eq_data.mp h
      simp [HalfClass.instr, Instr.wellFormed, Instr.admits, hc]
  | lastId x h => exact ⟨h, h⟩
  | lastData x h => simp [Instr.wellFormed, Instr.admits, h]
  | _ => exact ⟨rfl, rfl⟩

/-- Settles O1: what the table admits is what the class functions pick, and that is read back. -/
theorem encodedOperationsDecodeBack : Obligations.EncodedOperationsDecodeBack :=
  fun _ _ rest _ h => (classed_of_admits h).decode_encode rest

/-- Settles O2: what is read is what the class functions pick, and that meets its row's conditions. -/
theorem decodedBytesAreTheEncoding : Obligations.DecodedBytesAreTheEncoding := by
  intro c w i h
  obtain ⟨hi, hw⟩ := classed_of_decode h
  obtain ⟨hwf, hadm⟩ := hi.wellFormed_admits
  exact ⟨hwf, hadm, hw⟩

end Sys2Proof
end

section
/-! PROOFS. The decoder against the tables of R79 and R80, and the words written out from the encodings. -/

open Sys2Proof.Machine

namespace Sys2Proof

/-! ### A byte or half-word is read as its class's operation and no other -/

@[simp] theorem MatchClass.instr_inj {c c' : MatchClass} {b : Byte} {ts : Timestamp} :
    c.instr b ts = c'.instr b ts ↔ c = c' := by
  cases c <;> cases c' <;> simp [MatchClass.instr]

@[simp] theorem DriverClass.instr_inj {d d' : DriverClass} {b : Byte} {ts : Timestamp} :
    d.instr b ts = d'.instr b ts ↔ d = d' := by
  cases d <;> cases d' <;> simp [DriverClass.instr]

@[simp] theorem HalfClass.instr_inj {c c' : HalfClass} {i : HalfIndex} {lo hi : Entry} :
    c.instr i lo hi = c'.instr i lo hi ↔ c = c' := by
  cases c <;> cases c' <;> simp [HalfClass.instr]

theorem decode_matcher_eq_ok {m : Mode} {n : Nat} {b : Byte} {ts : Timestamp} (c : MatchClass) :
    decode (.matcher m n) (b :: word64Bytes ts) = .ok (c.instr b ts) ↔ matchClass m n b = c := by
  simp [decode, MatchClass.decode_word64Bytes]

theorem decode_driver_eq_ok {m : Mode} {member : MemberTable} {b : Byte} {ts : Timestamp} (d : DriverClass) :
    decode (.driver m member) (b :: word64Bytes ts) = .ok (d.instr b ts) ↔ driverClass m member b = some d := by
  cases h : driverClass m member b <;> simp [decode, h]

theorem decode_halfWord_eq_ok {k : HalfIndex} {a : AuxVector} {cv : Bool} {lo hi : Entry} (c : HalfClass) :
    decode (.halfWord k a cv) (halfWordBytes lo hi) = .ok (c.instr k lo hi) ↔
      halfClass (ctrlBit lo.byte) (auxBit a k) cv = c := by
  have h := withHalfWord_halfWordBytes lo hi []
  simp_all [decode]

/-- Half-word 7 is read by its control bit alone. -/
theorem decode_lastHalfWord (lo : Entry) (x : Byte) : decode .lastHalfWord (lastHalfWordBytes lo x) =
    .ok (if ctrlBit lo.byte then .hwLastId lo x else .hwLastData lo x) := by
  have h := withLastHalfWord_lastHalfWordBytes lo x []
  simp_all [decode]

/-! ### The tables, and closed words -/

/-- Settles O3: each row is the class that the matcher or the driver gives the byte. -/
theorem inputBytesAreClassedByTheTable : Obligations.InputBytesAreClassedByTheTable := by
  intro m n member b ts _ _
  refine ⟨?_, ?_, ?_, ?_, ?_, ?_, ?_, ?_, ?_, ?_, ?_⟩
  · exact (decode_matcher_eq_ok .syncStart).trans matchClass_eq_syncStart
  · exact (decode_matcher_eq_ok .syncAdvance).trans matchClass_eq_syncAdvance
  · exact (decode_matcher_eq_ok .syncCompleteS).trans matchClass_eq_syncCompleteS
  · exact (decode_matcher_eq_ok .syncCompleteF).trans matchClass_eq_syncCompleteF
  · exact (decode_matcher_eq_ok .syncAbortS).trans (matchClass_eq_syncAbortS.trans SyncCount.exists_iff)
  · exact (decode_matcher_eq_ok .syncDerail).trans (matchClass_eq_syncDerail.trans SyncCount.exists_iff)
  · rw [Nat.one_le_iff_ne_zero]
    exact (decode_matcher_eq_ok .frameByte).trans matchClass_frameByte
  · exact (decode_matcher_eq_ok .noSync).trans matchClass_noSync
  · rw [← passesByteCheck_iff_plausible]
    exact (decode_driver_eq_ok .candAccept).trans driverClass_eq_candAccept
  · rw [← passesByteCheck_iff_plausible]
    exact (decode_driver_eq_ok .candDiscard).trans driverClass_eq_candDiscard
  · exact (decode_driver_eq_ok .frameFirst).trans driverClass_eq_frameFirst

/-- Settles O4: each row is the class of the half-word's control bit, aux bit and Current Channel ID. -/
theorem halfWordsAreClassedByTheTable : Obligations.HalfWordsAreClassedByTheTable := by
  intro k a cur lo hi x
  rw [← Option.isSome_iff_exists, ← Option.not_isSome_iff_eq_none, Bool.not_eq_true, decode_lastHalfWord]
  refine ⟨?_, ?_, ?_, ?_, ?_, ?_, rfl⟩
  · exact (decode_halfWord_eq_ok .idImm).trans halfClass_eq_idImm
  · exact (decode_halfWord_eq_ok .idDelay).trans halfClass_eq_idDelay
  · exact (decode_halfWord_eq_ok .idOrphan).trans halfClass_eq_idOrphan
  · exact (decode_halfWord_eq_ok .data).trans halfClass_eq_data
  · change _ ↔ ctrlBit lo.byte = true
    cases ctrlBit lo.byte <;> simp
  · change _ ↔ ctrlBit lo.byte = false
    cases ctrlBit lo.byte <;> simp

/-- Settles O5: the words are closed bytes, and the decoder computes on them. -/
theorem specWordsDecodeToTheirOperations : Obligations.SpecWordsDecodeToTheirOperations :=
  ⟨rfl, rfl, rfl, rfl, rfl, rfl, rfl, rfl⟩

end Sys2Proof
end

section
/-! PROOFS. The auxiliary byte (R73, R75). -/

namespace Sys2Proof.Machine

theorem execAux_running {s : State} (hr : s.status = .running) (b : Byte) :
    execAux b s = .next (s.setAuxVec (auxVector b)) := whileRunning_running hr

/-- Settles O30: `AUX` stores `auxVector b`, whose bit `i` is bit `i + 1` of the byte. -/
theorem auxByteGivesOneBitPerHalfWord : Obligations.AuxByteGivesOneBitPerHalfWord :=
  fun _ b hr => ⟨auxVector b, execAux_running hr b, auxBit_auxVector b⟩

end Sys2Proof.Machine
end

section
/-! PROOFS. The operations of the sync-pattern matcher (40_sync_matcher.md): one rule for each of its byte classes,
saying where it runs and the state it leaves, and the hand-over of a byte to the ingestion driver (R106). -/

namespace Sys2Proof.Machine

variable {s : State} {b : Byte}

/-! ### The matcher's classes of byte -/

/-- The modes in which a match can start (R100). -/
theorem startSync_isSome_iff {m : Mode} : m.startSync.isSome = true ↔ m = .searching ∨ m = .framing := by
  cases m <;> simp [Mode.startSync]

/-- R100, from the modes `Mode.startSync` answers for. -/
theorem execSyncStart_running (hr : s.status = .running) (hn : s.n = 0) {m : Mode} (hm : s.mode.startSync = some m) :
    execSyncStart s = .next (s.setMode m) := by
  have hmode : s.mode = .searching ∨ s.mode = .framing := startSync_isSome_iff.mp (by rw [hm]; rfl)
  have hc : s.matchClassOf syncFirst = .syncStart :=
    matchClass_eq_syncStart.mpr ⟨hmode, Fin.val_eq_zero_iff.mpr hn, rfl⟩
  rw [execSyncStart, whileRunning_of hr (beq_iff_eq.mpr hc), hm]

/-- R101, from the modes `Mode.advanceSync` answers for. -/
theorem execSyncAdvance_running (hr : s.status = .running) {m : Mode} (hm : s.mode.advanceSync = some m) :
    execSyncAdvance s = .next (s.setMode m) := by
  rw [execSyncAdvance, whileRunning_running hr, hm]

/-- R102. -/
theorem execSyncCompleteS_running (hr : s.status = .running) (hm : s.mode = .searchingSyncing .three) :
    execSyncCompleteS s = .next ((s.setMode .framing).log (.syncFound s.offset)) :=
  whileRunning_of hr (beq_iff_eq.mpr hm)

/-- R103. -/
theorem execSyncCompleteF_running (hr : s.status = .running) (hm : s.mode = .framingSyncing .three) :
    execSyncCompleteF s = .next (s.setMode .framing) :=
  whileRunning_of hr (beq_iff_eq.mpr hm)

/-- R104. -/
theorem execSyncAbortS_running (hr : s.status = .running) {k : SyncCount} (hm : s.mode = .searchingSyncing k)
    (hb : b ≠ k.expected) : execSyncAbortS b s = .next (s.setMode .searching) :=
  whileRunning_of hr (beq_iff_eq.mpr (matchClass_eq_syncAbortS.mpr ⟨k, hm, hb⟩))

/-- R105. -/
theorem execSyncDerail_running (hr : s.status = .running) {k : SyncCount} (hm : s.mode = .framingSyncing k)
    (hb : b ≠ k.expected) :
    execSyncDerail b s = .next ((s.setMode .searching).log (.framingDerailed s.offset)) :=
  whileRunning_of hr (beq_iff_eq.mpr (matchClass_eq_syncDerail.mpr ⟨k, hm, hb⟩))

/-! ### The hand-over to the driver -/

/-- `append` below the buffer's end, field by field (R51). -/
theorem append_eq {k : Fin 17} (hk : k.val = s.n.val + 1) (e : Entry) :
    s.append e = { s with buf := s.buf.setIfInBounds s.n.val (some e), n := k } := by
  have hn : (⟨min (s.n.val + 1) 16, by omega⟩ : Fin 17) = k := Fin.ext (by simp only; omega)
  rw [← hn]; rfl

theorem append_empty (hn : s.n = 0) (e : Entry) :
    s.append e = { s with buf := s.buf.setIfInBounds 0 (some e), n := 1 } := by
  simpa [hn] using append_eq (s := s) (k := 1) (by simp [hn]) e

theorem driverIs_of {c : DriverClass} (hn : s.n = 0) (hc : driverClass s.mode s.member b = some c) :
    s.driverIs b c = true := by
  simp [State.driverIs, hn, hc]

section
variable (ts : Timestamp) (hr : s.status = .running) (hn : s.n = 0) (hb : b ≠ syncFirst)
include hr hn hb

/-- R106 with R123: while `Searching` the byte check's answer says whether the byte is stored or discarded. -/
theorem execNoSync_searching (hm : s.mode = .searching) :
    execNoSync b ts s = .next (if passesByteCheck s.member b then (s.setVerdict true).append (s.entryOf b ts)
      else s.setVerdict false) := by
  have hc : s.matchClassOf b = .noSync := matchClass_noSync.mpr ⟨.inl hm, Fin.val_eq_zero_iff.mpr hn, hb⟩
  rw [execNoSync, whileRunning_of hr (beq_iff_eq.mpr hc), hm]
  simp only [execByteCheck, whileRunning_running hr]
  rw [andThen_next_running (s := s.setVerdict _) hr]
  cases hp : passesByteCheck s.member b with
  | true => exact whileRunning_of hr (driverIs_of hn (driverClass_eq_candAccept.mpr ⟨hm, hb, hp⟩))
  | false => exact whileRunning_of hr (driverIs_of hn (driverClass_eq_candDiscard.mpr ⟨hm, hb, by simp [hp]⟩))

/-- R106 with R124: while `Framing` the byte is stored unchecked. -/
theorem execNoSync_framing (hm : s.mode = .framing) : execNoSync b ts s = .next (s.append (s.entryOf b ts)) := by
  have hc : s.matchClassOf b = .noSync := matchClass_noSync.mpr ⟨.inr hm, Fin.val_eq_zero_iff.mpr hn, hb⟩
  rw [execNoSync, whileRunning_of hr (beq_iff_eq.mpr hc), hm]
  exact whileRunning_of hr (driverIs_of hn (driverClass_eq_frameFirst.mpr ⟨hm, hb⟩))

end

/-! ### The obligations -/

/-- Settles O10: the rule of `SYNC_START`, in each of the two modes a match starts from. -/
theorem syncStartBeginsAMatch : Obligations.SyncStartBeginsAMatch := by
  intro s hr hn
  constructor <;> exact fun hm => execSyncStart_running hr hn (by rw [hm]; rfl)

/-- Settles O11: the rule of `SYNC_ADVANCE`, in each of the four modes a match goes on from. -/
theorem syncAdvanceKeepsTheFamily : Obligations.SyncAdvanceKeepsTheFamily := by
  intro s hr
  refine ⟨?_, ?_, ?_, ?_⟩ <;> exact fun hm => execSyncAdvance_running hr (by rw [hm]; rfl)

/-- Settles O12: the rules of the two completions. -/
theorem syncCompletionFrames : Obligations.SyncCompletionFrames :=
  fun _ hr => ⟨execSyncCompleteS_running hr, execSyncCompleteF_running hr⟩

/-- Settles O13: the rules of the two mismatches, `SYNC[k]` written out for each `k`. -/
theorem syncMismatchReturnsToSearching : Obligations.SyncMismatchReturnsToSearching := by
  intro s b hr
  constructor
  · rintro (⟨hm, hb⟩ | ⟨hm, hb⟩ | ⟨hm, hb⟩) <;> exact execSyncAbortS_running hr hm hb
  · rintro (⟨hm, hb⟩ | ⟨hm, hb⟩ | ⟨hm, hb⟩) <;> exact execSyncDerail_running hr hm hb

/-- Settles O18: the hand-over in each mode, `append` at `n = 0` written field by field. -/
theorem noSyncHandsTheByteToTheDriver : Obligations.NoSyncHandsTheByteToTheDriver := by
  intro s b ts hr hn hb
  refine ⟨fun hm hp => ?_, fun hm hp => ?_, fun hm => ?_⟩
  · rw [exec, execNoSync_searching ts hr hn hb hm, if_pos (passesByteCheck_iff_plausible.mpr hp),
      append_empty (s := s.setVerdict true) hn]
    rfl
  · rw [exec, execNoSync_searching ts hr hn hb hm, if_neg (mt passesByteCheck_iff_plausible.mp hp)]
    rfl
  · rw [exec, execNoSync_framing ts hr hn hb hm, append_empty hn]
    rfl

end Sys2Proof.Machine
end

section
/-! PROOFS. The matcher's part of a `BYTE` event as one function (R110), and the transitions an event makes (R108,
R109). `syncStep` speaks of the codes of the modes; `consumed` says what it gives for each class of byte, and from there
the rules of the classes say what the event does. -/

namespace Sys2Proof.Machine

/-! ### The matcher's function -/

/-- What R110's function gives for a byte of class `c` in the mode of code `code`. -/
def consumed (c : MatchClass) (code : Nat) (off : Offset) : Option (Nat × List Diag) :=
  match c with
  | .syncStart | .syncAdvance => some (code + 1, [])
  | .syncCompleteS => some (4, [.syncFound off])
  | .syncCompleteF => some (4, [])
  | .syncAbortS => some (0, [])
  | .syncDerail => some (0, [.framingDerailed off])
  | .noSync | .frameByte => none

section
variable (n : Nat) (b : Byte) (off : Offset)

theorem syncStep_not_syncing {m : Mode} (hm : m = .searching ∨ m = .framing) :
    syncStep m.code.toNat n b off = if n = 0 ∧ b = syncFirst then some (m.code.toNat + 1, []) else none := by
  rcases hm with rfl | rfl <;> simp [syncStep, Mode.code, syncFirst, Config.sync, eq_comm]

theorem syncStep_searchingSyncing (k : SyncCount) :
    syncStep (Mode.searchingSyncing k).code.toNat n b off =
      if b = k.expected then
        if k.next.isSome then some ((Mode.searchingSyncing k).code.toNat + 1, []) else some (4, [.syncFound off])
      else some (0, []) := by
  cases k <;>
    simp [syncStep, Mode.code, SyncCount.toNat, SyncCount.next, SyncCount.expected, Config.sync, eq_comm]

theorem syncStep_framingSyncing (k : SyncCount) :
    syncStep (Mode.framingSyncing k).code.toNat n b off =
      if b = k.expected then
        if k.next.isSome then some ((Mode.framingSyncing k).code.toNat + 1, []) else some (4, [])
      else some (0, [.framingDerailed off]) := by
  cases k <;>
    simp [syncStep, Mode.code, SyncCount.toNat, SyncCount.next, SyncCount.expected, Config.sync, eq_comm]

/-- R110's function sees a byte as the class the matcher gives it. -/
theorem syncStep_eq_consumed (m : Mode) :
    syncStep m.code.toNat n b off = consumed (matchClass m n b) m.code.toNat off := by
  cases m with
  | searching | framing =>
    rw [syncStep_not_syncing n b off (by decide)]
    by_cases hn : n = 0 <;> by_cases hb : b = syncFirst <;> simp [matchClass, consumed, hn, hb]
  | searchingSyncing k =>
    rw [syncStep_searchingSyncing]
    by_cases hb : b = k.expected <;> by_cases hk : k.next.isSome = true <;> simp [matchClass, consumed, hb, hk]
  | framingSyncing k =>
    rw [syncStep_framingSyncing]
    by_cases hb : b = k.expected <;> by_cases hk : k.next.isSome = true <;> simp [matchClass, consumed, hb, hk]

end

theorem startSync_code {m m' : Mode} (h : m.startSync = some m') : m'.code.toNat = m.code.toNat + 1 := by
  cases m <;> cases h <;> rfl

theorem advanceSync_code {m m' : Mode} (h : m.advanceSync = some m') : m'.code.toNat = m.code.toNat + 1 := by
  cases m with
  | searching | framing => cases h
  | searchingSyncing k | framingSyncing k => cases k <;> cases h <;> rfl

/-- Where the matcher's function consumes a byte, the byte's class does what the function says. -/
theorem runMatchClass_of_consumed {s : State} {b : Byte} {code : Nat} {ds : List Diag} (ts : Timestamp)
    (hr : s.status = .running) (h : consumed (s.matchClassOf b) s.mode.code.toNat s.offset = some (code, ds)) :
    ∃ m : Mode, m.code.toNat = code ∧
      runMatchClass (s.matchClassOf b) b ts s = .next { s with mode := m, out := s.out ++ ds.map .diag } := by
  have silent (m : Mode) : s.setMode m = { s with mode := m, out := s.out ++ ([] : List Diag).map .diag } := by
    simp [State.setMode]
  cases hc : s.matchClassOf b with
  | syncStart =>
    obtain ⟨hm, hn, -⟩ := matchClass_eq_syncStart.mp hc
    obtain ⟨m, hm⟩ := Option.isSome_iff_exists.mp (startSync_isSome_iff.mpr hm)
    rw [hc] at h; cases h
    exact ⟨m, startSync_code hm, silent m ▸ execSyncStart_running hr (Fin.val_eq_zero_iff.mp hn) hm⟩
  | syncAdvance =>
    obtain ⟨m, hm⟩ := Option.isSome_iff_exists.mp (matchClass_syncAdvance hc)
    rw [hc] at h; cases h
    exact ⟨m, advanceSync_code hm, silent m ▸ execSyncAdvance_running hr hm⟩
  | syncCompleteS =>
    rw [hc] at h; cases h
    exact ⟨.framing, rfl, execSyncCompleteS_running hr (matchClass_syncCompleteS hc)⟩
  | syncCompleteF =>
    rw [hc] at h; cases h
    exact ⟨.framing, rfl, silent _ ▸ execSyncCompleteF_running hr (matchClass_syncCompleteF hc)⟩
  | syncAbortS =>
    obtain ⟨k, hm, hb⟩ := matchClass_eq_syncAbortS.mp hc
    rw [hc] at h; cases h
    exact ⟨.searching, rfl, silent _ ▸ execSyncAbortS_running hr hm hb⟩
  | syncDerail =>
    obtain ⟨k, hm, hb⟩ := matchClass_eq_syncDerail.mp hc
    rw [hc] at h; cases h
    exact ⟨.searching, rfl, execSyncDerail_running hr hm hb⟩
  | noSync | frameByte => rw [hc] at h; cases h

/-- The matcher hands a byte on as the first of a frame where the buffer is empty, and as its next one elsewhere. -/
theorem matchClassOf_of_not_consumed {s : State} {b : Byte} {code : Nat} {off : Offset}
    (h : consumed (s.matchClassOf b) code off = none) : s.matchClassOf b = if s.n = 0 then .noSync else .frameByte := by
  cases hc : s.matchClassOf b with
  | noSync => rw [if_pos (Fin.val_eq_zero_iff.mp (matchClass_noSync.mp hc).2.1)]
  | frameByte => rw [if_neg (mt Fin.val_eq_zero_iff.mpr (matchClass_frameByte.mp hc).2)]
  | syncStart | syncAdvance | syncCompleteS | syncCompleteF | syncAbortS | syncDerail => rw [hc] at h; cases h

/-- Settles O14: a `BYTE` event is its class's meaning on the counted state, and `syncStep` speaks of that class. -/
theorem byteEventsFollowTheMatcherFunction : Obligations.ByteEventsFollowTheMatcherFunction := by
  intro s b ts hr ho
  have hev : exec (.byte b ts) s = runMatchClass (s.countByte.matchClassOf b) b ts s.countByte :=
    execByte_eq hr fun h => absurd ((offset_eq_allOnes_iff _).mp h) (by omega)
  have hstep : syncStep s.mode.code.toNat s.n.val b (s.offset + 1) =
      consumed (s.countByte.matchClassOf b) s.mode.code.toNat (s.offset + 1) := syncStep_eq_consumed ..
  rw [hev, hstep]
  refine ⟨fun code ds h => runMatchClass_of_consumed (s := s.countByte) ts hr h, fun h => ?_⟩
  rw [matchClassOf_of_not_consumed h, State.countByte_n]
  exact ⟨fun hn => by rw [if_pos hn]; rfl, fun hn => by rw [if_neg hn]; rfl⟩

/-! ### The transitions -/

/-- R108's table is the same in the modes and in their codes. -/
theorem legalCodes_of_legalPairs {m m' : Mode} (h : (m, m') ∈ legalPairs) :
    (m.code.toNat, m'.code.toNat) ∈ legalCodes :=
  List.mem_map_of_mem (f := fun p : Mode × Mode => (p.1.code.toNat, p.2.code.toNat)) h

/-- The demultiplexer ends a run only as R172 and R173 say. -/
theorem Emits.not_illegal {s t : State} {ps : List Packet} (h : Emits s t ps) (hr : s.status = .running) :
    t.status ≠ .faultIllegalTransition := by
  rcases h.ended hr with ⟨ht, -⟩ | ⟨ht | ht, -⟩ <;> simp [ht]

theorem FrameEffect.not_illegal {s t : State} (h : FrameEffect s t) (hr : s.status = .running) :
    t.status ≠ .faultIllegalTransition := by
  cases h with
  | searchValid e u ps hm hf he hd hu hps => exact hps.not_illegal hr
  | searchStopped e u ps hm hf he hd hu hps => exact hps.not_illegal hr
  | valid u ps hm hf hd hu hps => exact hps.not_illegal hr
  | stopped u ps hm hf hd hu hps => exact hps.not_illegal hr
  | compacted j e => simp [hr]
  | emptied | tolerated | resumed => simp [hr]

/-- No class of byte ends the run with the transition fault, which only the check raises (R109). -/
theorem ByteEffect.not_illegal {b : Byte} {ts : Timestamp} {s t : State} (h : ByteEffect b ts s t)
    (hr : s.status = .running) : t.status ≠ .faultIllegalTransition := by
  cases h with
  | completed ok t hm hn hf h => exact h.not_illegal (by simpa using hr)
  | sync | report | accepted | discarded | first | stored => simp [hr]

/-- Settles O15: each class of byte makes a transition of the table; the other events end the run and leave the mode. -/
theorem onlyLegalTransitionsHappen : Obligations.OnlyLegalTransitionsHappen := by
  intro s t e h
  cases e with
  | byte b ts =>
    obtain ⟨hr, -, hb⟩ := execByte_effect h
    exact ⟨fun _ => legalCodes_of_legalPairs hb.legal, fun hk => absurd rfl hk, hb.not_illegal hr⟩
  | endStream | srcErr err =>
    obtain ⟨-, -, h⟩ := whileRunning_eq_next.mp h
    cases h
    exact ⟨nofun, fun _ => rfl, nofun⟩

end Sys2Proof.Machine
end

section
/-! PROOFS. Bytes that arrive while a frame is partly collected (R107, R125, R135). `Collected bs s t` says that `t` is
`s` with the bytes `bs` counted and appended; a step collects one byte, and the run of the list follows by induction. -/

namespace Sys2Proof.Machine

/-- `FRAME_BYTE` short of the sixteenth byte is an append (R125). -/
theorem execFrameByte_stores {s : State} (b : Byte) (ts : Timestamp) (hr : s.status = .running)
    (hm : s.mode = .searching ∨ s.mode = .framing) (hn : 1 ≤ s.n.val) (hlt : s.n.val < 15) :
    execFrameByte b ts s = .next (s.append (s.entryOf b ts)) := by
  have hc : matchClass s.mode s.n.val b = .frameByte := matchClass_frameByte.mpr ⟨hm, by omega⟩
  have h16 : s.n.val < 16 := by omega
  have hne : (s.append (s.entryOf b ts)).n.val ≠ 16 := by rw [State.append_n]; omega
  rw [execFrameByte, whileRunning_of hr (by simp [hc, h16])]
  exact if_neg hne

/-- The state with the `BYTE` event at its port taken and its byte counted and stored. -/
def State.collect (s : State) (b : Byte) (ts : Timestamp) (rest : List HostAction) : State :=
  (s.takeInput rest).countByte.append ⟨b, ts, s.offset + 1⟩

section
variable (s : State) (b : Byte) (ts : Timestamp) (rest : List HostAction)

@[simp] theorem State.collect_status : (s.collect b ts rest).status = s.status := by simp [State.collect]
@[simp] theorem State.collect_mode : (s.collect b ts rest).mode = s.mode := by simp [State.collect]
@[simp] theorem State.collect_input : (s.collect b ts rest).input = rest := by simp [State.collect]
@[simp] theorem State.collect_offset : (s.collect b ts rest).offset = s.offset + 1 := by simp [State.collect]
@[simp] theorem State.collect_n : (s.collect b ts rest).n.val = min (s.n.val + 1) 16 := by simp [State.collect]

end

theorem collect_memRead_lt {s : State} {j : Nat} (hj : j < s.n.val) (b : Byte) (ts : Timestamp)
    (rest : List HostAction) : (s.collect b ts rest).memRead j = s.memRead j :=
  append_memRead_lt (s := (s.takeInput rest).countByte) hj

theorem collect_memRead_self {s : State} (hn : s.n.val < 16) (b : Byte) (ts : Timestamp) (rest : List HostAction) :
    (s.collect b ts rest).memRead s.n.val = some ⟨b, ts, s.offset + 1⟩ :=
  append_memRead_self (s := (s.takeInput rest).countByte) hn

/-- A step whose byte falls into a partly collected frame collects it. -/
theorem step_collects {s : State} {b : Byte} {ts : Timestamp} {rest : List HostAction} (hr : s.status = .running)
    (hm : s.mode = .searching ∨ s.mode = .framing) (hn : 1 ≤ s.n.val) (hlt : s.n.val < 15)
    (ho : s.offset.toNat < 2 ^ 64 - 1) (hi : s.input = .event (.byte b ts) :: rest) :
    step s = .next (s.collect b ts rest) := by
  have hc : (s.takeInput rest).countByte.matchClassOf b = .frameByte :=
    matchClass_frameByte.mpr ⟨hm, Nat.one_le_iff_ne_zero.mp hn⟩
  have hmax : s.offset ≠ BitVec.allOnes Config.offsetBits := fun h => absurd ((offset_eq_allOnes_iff _).mp h) (by omega)
  calc step s = execByte b ts (s.takeInput rest) := step_event hi
    _ = execFrameByte b ts (s.takeInput rest).countByte := by
      rw [execByte_eq (s := s.takeInput rest) hr hmax, hc]; rfl
    _ = .next (s.collect b ts rest) := execFrameByte_stores (s := (s.takeInput rest).countByte) b ts hr hm hn hlt

/-- `t` is `s` with the bytes `bs` taken from the port, counted, and stored behind the entries already there. -/
structure Collected (bs : List (Byte × Timestamp)) (s t : State) : Prop where
  n : t.n.val = s.n.val + bs.length
  offset : t.offset = s.offset + BitVec.ofNat 64 bs.length
  earlier : ∀ j, j < s.n.val → t.memRead j = s.memRead j
  arrived : ∀ (k : Nat) (h : k < bs.length), t.memRead (s.n.val + k) =
    some ⟨bs[k].1, bs[k].2, s.offset + BitVec.ofNat 64 (k + 1)⟩
  kept : { t with buf := s.buf, n := s.n, offset := s.offset, input := s.input } = s

theorem collected_nil (s : State) : Collected [] s s where
  n := rfl
  offset := by simp
  earlier _ _ := rfl
  arrived _ h := by simp at h
  kept := rfl

theorem collected_cons {s t : State} {b : Byte} {ts : Timestamp} {bs : List (Byte × Timestamp)} {rest : List HostAction}
    (hn : s.n.val < 16) (h : Collected bs (s.collect b ts rest) t) : Collected ((b, ts) :: bs) s t := by
  have hn1 : (s.collect b ts rest).n.val = s.n.val + 1 := by rw [State.collect_n]; omega
  have hadd (k : Nat) : s.offset + 1 + BitVec.ofNat 64 k = s.offset + BitVec.ofNat 64 (k + 1) := by
    rw [BitVec.add_assoc, Nat.add_comm k, BitVec.ofNat_add]; rfl
  refine ⟨?_, ?_, fun j hj => ?_, fun k hk => ?_, ?_⟩
  · rw [h.n, hn1, List.length_cons]; omega
  · rw [h.offset, State.collect_offset, hadd, List.length_cons]
  · rw [h.earlier j (by omega), collect_memRead_lt hj]
  · cases k with
    | zero => exact (h.earlier s.n.val (by omega)).trans (collect_memRead_self hn ..)
    | succ k =>
      have harr := h.arrived k (Nat.lt_of_succ_lt_succ hk)
      rw [hn1, State.collect_offset, hadd, Nat.add_right_comm] at harr
      exact harr
  · exact congrArg (fun u : State => { u with buf := s.buf, n := s.n, offset := s.offset, input := s.input }) h.kept

theorem core_run_succ {s t : State} (h : step s = .next t) (k : Nat) : core.run (k + 1) s = core.run k t := by
  have h' : core.step s = .next t := h
  simp only [Host.Core.run, h']

/-- A run over `BYTE` events that does not fill the buffer collects their bytes. -/
theorem core_run_collects (bs : List (Byte × Timestamp)) : ∀ (s : State) (rest : List HostAction),
    s.status = .running → (s.mode = .searching ∨ s.mode = .framing) → 1 ≤ s.n.val → s.n.val + bs.length ≤ 15 →
    s.offset.toNat + bs.length < 2 ^ 64 → s.input = bs.map (fun p => .event (.byte p.1 p.2)) ++ rest →
    ∃ t, core.run bs.length s = .next t ∧ t.input = rest ∧ Collected bs s t := by
  induction bs with
  | nil => exact fun s rest _ _ _ _ _ hi => ⟨s, rfl, hi, collected_nil s⟩
  | cons p bs ih =>
    intro s rest hr hm hn hlen ho hi
    rw [List.length_cons] at hlen ho
    have hstep := step_collects hr hm hn (by omega) (by omega) hi
    have hoff : (s.offset + 1).toNat = (s.offset.toNat + 1) % 2 ^ 64 := BitVec.toNat_add ..
    obtain ⟨t, hrun, hrest, hc⟩ := ih (s.collect p.1 p.2 _) rest ((State.collect_status ..).trans hr)
      (by rwa [State.collect_mode]) (by rw [State.collect_n]; omega) (by rw [State.collect_n]; omega)
      (by rw [State.collect_offset]; omega) (State.collect_input ..)
    exact ⟨t, (core_run_succ hstep _).trans hrun, hrest, collected_cons (by omega) hc⟩

/-- Settles O20: the run collects the bytes, whatever their values. -/
theorem arrivingBytesBecomeTheNextEntries : Obligations.ArrivingBytesBecomeTheNextEntries := by
  intro bs s rest hr hm hn hlen ho hi
  obtain ⟨t, hrun, hrest, hc⟩ := core_run_collects bs s rest hr hm hn hlen ho hi
  exact ⟨t, hrun, hc.n, hrest, hc.offset, hc.earlier, hc.arrived, hc.kept⟩

end Sys2Proof.Machine
end

section
/-! PROOFS. Bytes handed to the ingestion driver (R122 to R125) and the events that end a run (R132 to R134). -/

namespace Sys2Proof.Machine

/-! ### Collecting a frame -/

section
variable {s : State} {b : Byte} (ts : Timestamp) (hr : s.status = .running)
include hr

/-- `CAND_ACCEPT` appends the byte's Entry (R123). -/
theorem execCandAccept_stores (hm : s.mode = .searching) (hn : s.n = 0) (hb : b ≠ syncFirst)
    (hp : plausible s.member b) : execCandAccept b ts s = .next (s.append (s.entryOf b ts)) :=
  whileRunning_of hr
    (driverIs_of hn (driverClass_eq_candAccept.mpr ⟨hm, hb, passesByteCheck_iff_plausible.mpr hp⟩))

/-- `CAND_DISCARD` leaves the state as it is (R123). -/
theorem execCandDiscard_discards (hm : s.mode = .searching) (hn : s.n = 0) (hb : b ≠ syncFirst)
    (hp : ¬ plausible s.member b) : execCandDiscard b ts s = .next s :=
  whileRunning_of hr
    (driverIs_of hn (driverClass_eq_candDiscard.mpr ⟨hm, hb, mt passesByteCheck_iff_plausible.mp hp⟩))

/-- `FRAME_FIRST` appends the byte's Entry (R124). -/
theorem execFrameFirst_stores (hm : s.mode = .framing) (hn : s.n = 0) (hb : b ≠ syncFirst) :
    execFrameFirst b ts s = .next (s.append (s.entryOf b ts)) :=
  whileRunning_of hr (driverIs_of hn (driverClass_eq_frameFirst.mpr ⟨hm, hb⟩))

/-- `FRAME_BYTE` of the sixteenth byte is `FRAME_COMPLETE` of the appended state (R125, R126). -/
theorem execFrameByte_completes (b : Byte) (hm : s.mode = .searching ∨ s.mode = .framing) (hn : s.n.val = 15) :
    execFrameByte b ts s = execFrameComplete (s.append (s.entryOf b ts)) := by
  have hc : matchClass s.mode s.n.val b = .frameByte := matchClass_frameByte.mpr ⟨hm, by omega⟩
  have hlt : s.n.val < 16 := by omega
  have h16 : (s.append (s.entryOf b ts)).n.val = 16 := by rw [State.append_n]; omega
  rw [execFrameByte, whileRunning_of hr (by simp [hc, hlt])]
  exact if_pos h16

end

/-- Settles O16: the driver's two rows while `Searching`, `append` at `n = 0` written field by field. -/
theorem candidatesAreStoredOrDiscarded : Obligations.CandidatesAreStoredOrDiscarded := by
  intro s b ts hr hm hn hb
  refine ⟨fun hp => ?_, execCandDiscard_discards ts hr hm hn hb⟩
  rw [exec, execCandAccept_stores ts hr hm hn hb hp, append_empty hn]
  rfl

/-- Settles O17: the driver's row while `Framing`. -/
theorem firstFrameByteIsStoredUnchecked : Obligations.FirstFrameByteIsStoredUnchecked := by
  intro s b ts hr hm hn hb
  rw [exec, execFrameFirst_stores ts hr hm hn hb, append_empty hn]
  rfl

/-- Settles O19: short of the sixteenth byte an append, and at the sixteenth `FRAME_COMPLETE` of the append. -/
theorem frameByteIsStoredWhateverItsValue : Obligations.FrameByteIsStoredWhateverItsValue := by
  intro s b ts hr hm
  refine ⟨fun k h1 hlt hk => ?_, fun hn => ?_⟩
  · rw [exec, execFrameByte_stores b ts hr hm h1 hlt, append_eq hk]
    rfl
  · have h16 : (16 : Fin 17).val = s.n.val + 1 := by rw [hn]; rfl
    rw [exec, execFrameByte_completes ts hr b hm hn, append_eq h16, hn]
    rfl

/-! ### The events that end a run -/

/-- Settles O49: the summary is put out before the terminal status (R62). -/
theorem endReportsTheValidFrames : Obligations.EndReportsTheValidFrames := by
  intro s hr
  rw [exec, execEndStream, whileRunning_running hr]
  simp [State.terminate, State.emit]

/-- Settles O50: entry into the terminal status is all there is. -/
theorem sourceFailureAbortsTheRun : Obligations.SourceFailureAbortsTheRun :=
  fun _ _ hr => whileRunning_running hr

theorem whileRunning_ended {s : State} (hr : s.status ≠ .running) (c : Bool) (k : Result) :
    whileRunning s c k = .refused .runEnded := if_neg hr

/-- In a terminal status every event's meaning refuses (R134). -/
theorem exec_event_ended {s : State} (hr : s.status ≠ .running) (e : Event) :
    exec e.instr s = .refused .runEnded := by
  cases e <;> exact whileRunning_ended hr _ _

/-- An unanswered pull: stuck while running, refused in a terminal status (R68, R134). -/
theorem step_of_no_input {s : State} (hi : s.input = []) :
    step s = if s.status = .running then .fault .awaitingEvent else .refused .runEnded := by
  rw [step, takeAction, hi]

/-- Settles O52: the event at the port meets a meaning that refuses, and an empty port is a stop of its own. -/
theorem terminalStatusTakesNoEvent : Obligations.TerminalStatusTakesNoEvent := by
  refine fun s => ⟨fun hr hi => ?_, fun e rest hr hi => ?_, fun hr hi => ?_⟩
  · rw [step_of_no_input hi, if_neg hr]
  · rw [step_event hi]
    exact exec_event_ended (s := s.takeInput rest) hr e
  · rw [step_of_no_input hi, if_pos hr]

end Sys2Proof.Machine
end

section
/-! PROOFS. The completed frame (R126 to R131): the frame check's answer as R141 states it, a rule for each of the five
rows a frame can be, and what the frame leaves counted. -/

namespace Sys2Proof.Machine

/-! ### The frame check's answer -/

/-- The NULL ID is the field's zero (R141). -/
theorem idField_eq_nullId_iff (b : Byte) : idField b = Config.nullId ↔ b.toNat / 2 = 0 := by
  rw [← idField_toNat, BitVec.toNat_eq]; rfl

/-- What R141 asks of one low byte, in its numbers. -/
theorem lowByteOk_iff {member : MemberTable} {intermix : Bool} {i : Nat} {lo : Byte} :
    lowByteOk member intermix i lo = true ↔ (lo.getLsbD 0 = true →
      lo.toNat / 2 = 0 ∨ (member.getLsbD (lo.toNat / 2) = true ∧ (intermix = true ∨ i = 0))) := by
  simp only [lowByteOk, ctrlBit, isMember, Bool.or_eq_true, Bool.and_eq_true, Bool.not_eq_true', beq_iff_eq,
    idField_eq_nullId_iff, idField_toNat]
  cases lo.getLsbD 0 <;> simp

section
variable {s : State} {f : Fin 16 → Entry}

/-- The frame check of a full buffer passes exactly the frames R141 passes. -/
theorem frameOk_iff_framePasses (hf : s.holdsFrame f) : s.frameOk = some true ↔ framePasses s f := by
  rw [frameOk_of_holdsFrame hf, Option.some_inj]
  simp only [framePasses, ← lowByteOk_iff]
  simp [lowBytesOk, Fin.forall_fin_succ]

theorem frameOk_of_passes (hf : s.holdsFrame f) (hp : framePasses s f) : s.frameOk = some true :=
  (frameOk_iff_framePasses hf).mpr hp

theorem frameOk_of_fails (hf : s.holdsFrame f) (hp : ¬ framePasses s f) : s.frameOk = some false := by
  obtain ⟨ok, hok⟩ := Option.isSome_iff_exists.mp (full_frameOk (holdsFrame_full hf))
  cases ok with
  | true => exact absurd ((frameOk_iff_framePasses hf).mp hok) hp
  | false => exact hok

end

/-! ### `FRAME_COMPLETE` -/

theorem frameClass_tolerated {consec : Counter} (hc : consec ≠ 0) :
    frameClass .framing false consec = some .invalidTolerated := congrArg some (if_neg hc)

theorem frameClass_resume {consec : Counter} (hc : consec = 0) :
    frameClass .framing false consec = some .invalidResume := congrArg some (if_pos hc)

/-- Settles O8: in each mode the check's answer and `consec` select one row, and the answer is left in `verdict`. -/
theorem completedFrameRunsTheRowItIs : Obligations.CompletedFrameRunsTheRowItIs := by
  intro s f hr hf
  refine ⟨fun hm hp => ?_, fun hm hp => ?_, fun hm hp => ?_, fun hm hp hc => ?_, fun hm hp hc => ?_⟩
  · exact execFrameComplete_eq (c := .searchValid) hr hf.1 (frameOk_of_passes hf hp) (by rw [hm]; rfl)
  · exact execFrameComplete_eq (c := .searchInvalid) hr hf.1 (frameOk_of_fails hf hp) (by rw [hm]; rfl)
  · exact execFrameComplete_eq (c := .valid) hr hf.1 (frameOk_of_passes hf hp) (by rw [hm]; rfl)
  · exact execFrameComplete_eq (c := .invalidTolerated) hr hf.1 (frameOk_of_fails hf hp)
      (hm ▸ frameClass_tolerated hc)
  · exact execFrameComplete_eq (c := .invalidResume) hr hf.1 (frameOk_of_fails hf hp)
      (hm ▸ frameClass_resume hc)

/-! ### The rescan -/

/-- Entry `k` is written and fails the byte check: the rescan passes over it (R128). -/
def State.NoCandidate (s : State) (k : Nat) : Prop :=
  ∃ e, s.memRead k = some e ∧ passesByteCheck s.member e.byte = false

theorem rescan_passes_over {s : State} {pre : List Nat} (h : ∀ k ∈ pre, s.NoCandidate k) (js : List Nat) :
    rescan (pre ++ js) s = rescan js s := by
  induction pre with
  | nil => rfl
  | cons k pre ih =>
    obtain ⟨e, he, hp⟩ := h k (by simp)
    rw [List.cons_append, rescan, withEntry_some he, hp]
    exact ih fun i hi => h i (List.mem_cons_of_mem k hi)

/-- The candidates before `j`, then `j`, then those after it. -/
theorem candidates_eq_append {j : Nat} (h1 : 1 ≤ j) (h15 : j ≤ 15) :
    candidates = List.range' 1 (j - 1) ++ j :: List.range' (j + 1) (15 - j) := by
  have hj : j :: List.range' (j + 1) (15 - j) = List.range' (1 + (j - 1)) (15 - j + 1) := by
    rw [List.range'_succ, Nat.add_sub_cancel' h1]
  have hlen : j - 1 + (15 - j + 1) = 15 := by omega
  rw [hj, List.range'_append_1, hlen]
  rfl

theorem rescan_of_first {s : State} {j : Nat} {e : Entry} (h1 : 1 ≤ j) (h15 : j ≤ 15) (he : s.memRead j = some e)
    (hp : passesByteCheck s.member e.byte = true) (hfirst : ∀ k, 1 ≤ k → k < j → s.NoCandidate k) :
    rescan candidates s = .next (s.compact j) := by
  rw [candidates_eq_append h1 h15, rescan_passes_over, rescan, withEntry_some he, if_pos hp]
  intro k hk
  obtain ⟨hk1, hkj⟩ := List.mem_range'_1.mp hk
  exact hfirst k hk1 (by omega)

theorem rescan_of_none {s : State} (h : ∀ k, 1 ≤ k → k ≤ 15 → s.NoCandidate k) :
    rescan candidates s = .next s.dropFrame := by
  have hc (k : Nat) (hk : k ∈ candidates) : s.NoCandidate k := by
    have hk' : 1 ≤ k ∧ k < 1 + 15 := List.mem_range'_1.mp hk
    exact h k hk'.1 (by omega)
  have h := rescan_passes_over hc []
  rwa [List.append_nil] at h

theorem noCandidate_of_holdsFrame {s : State} {f : Fin 16 → Entry} (hf : s.holdsFrame f) {k : Fin 16}
    (hp : ¬ plausible s.member (f k).byte) : s.NoCandidate k.val :=
  ⟨f k, hf.2 k, Bool.eq_false_iff.mpr (mt passesByteCheck_iff_plausible.mp hp)⟩

/-- A compaction writes the buffer and the fill index alone (R54). -/
theorem compact_frame (s : State) (j : Nat) : { s.compact j with buf := s.buf, n := s.n } = s := by
  cases s; rfl

/-! ### The five rows -/

section
variable {s : State} {f : Fin 16 → Entry} (hr : s.status = .running)
include hr

/-- R127. -/
theorem execSearchFrameValid_eq (hf : s.holdsFrame f) (hc : s.frameIs .searchValid = true) :
    execSearchFrameValid s = andThen (execDemux (s.log (.validFrame (f 0).off))) fun t =>
      .next (((t.countValid.setMode .framing).setConsec 1).dropFrame) := by
  rw [execSearchFrameValid, whileRunning_of hr hc, withEntry_some (j := 0) (hf.2 0)]

/-- R128. -/
theorem execSearchFrameInvalid_eq (hc : s.frameIs .searchInvalid = true) :
    execSearchFrameInvalid s = rescan candidates s.countInvalid := whileRunning_of hr hc

/-- R129. -/
theorem execFrameValid_eq (hc : s.frameIs .valid = true) :
    execFrameValid s = andThen (execDemux s) fun t =>
      .next ((t.countValid.setConsec (satInc t.consec)).dropFrame) := whileRunning_of hr hc

/-- R130. -/
theorem execFrameInvalidTolerated_eq (hf : s.holdsFrame f) (hc : s.frameIs .invalidTolerated = true) :
    execFrameInvalidTolerated s =
      .next (((s.countInvalid.log (.invalidFrame s.consec (f 0).off)).setConsec 0).dropFrame) := by
  rw [execFrameInvalidTolerated, whileRunning_of hr hc, withEntry_some (j := 0) (hf.2 0)]

/-- R131. -/
theorem execFrameInvalidResume_eq (hf : s.holdsFrame f) (hc : s.frameIs .invalidResume = true) :
    execFrameInvalidResume s =
      .next (((s.countInvalid.log (.resumeSearch (f 0).off)).setMode .searching).dropFrame) := by
  rw [execFrameInvalidResume, whileRunning_of hr hc, withEntry_some (j := 0) (hf.2 0)]

end

section
variable {s : State} {f : Fin 16 → Entry} {c : FrameClass} (hf : s.holdsFrame f)
include hf

theorem frameIs_of_passes (hp : framePasses s f) (hc : frameClass s.mode true s.consec = some c) :
    s.frameIs c = true := (frameIs_iff hf.1 (frameOk_of_passes hf hp)).mpr hc

theorem frameIs_of_fails (hp : ¬ framePasses s f) (hc : frameClass s.mode false s.consec = some c) :
    s.frameIs c = true := (frameIs_iff hf.1 (frameOk_of_fails hf hp)).mpr hc

end

/-- Settles O27: the row's rule, with the increment as R11 states it. -/
theorem badFrameAfterGoodIsTolerated : Obligations.BadFrameAfterGoodIsTolerated := by
  intro s f hr hm hf hp hc
  have hrow : s.frameIs .invalidTolerated = true := frameIs_of_fails hf hp (hm ▸ frameClass_tolerated hc)
  rw [exec, execFrameInvalidTolerated_eq hr hf hrow, ← satInc_eq_saturated]
  rfl

/-- Settles O28: the row's rule; `consec` is 0 already. -/
theorem secondBadFrameResumesSearch : Obligations.SecondBadFrameResumesSearch := by
  intro s f hr hm hf hp hc
  have hrow : s.frameIs .invalidResume = true := frameIs_of_fails hf hp (hm ▸ frameClass_resume hc)
  rw [exec, execFrameInvalidResume_eq hr hf hrow, ← satInc_eq_saturated]
  rfl

/-- Settles O26: the rescan stops at the first candidate, and a compaction reads what stood from there on (R54). -/
theorem failedFrameWhileSearchingIsRescanned : Obligations.FailedFrameWhileSearchingIsRescanned := by
  intro s f hr hm hf hp
  have hrow : s.frameIs .searchInvalid = true := frameIs_of_fails hf hp (by rw [hm]; rfl)
  have hfails {k : Nat} (hk : k < 16) (h : ¬ plausible s.member (f ⟨k, hk⟩).byte) : s.countInvalid.NoCandidate k :=
    noCandidate_of_holdsFrame (s := s.countInvalid) hf h
  rw [exec, execSearchFrameInvalid_eq hr hrow, ← satInc_eq_saturated]
  refine ⟨fun j hj hpj hfirst => ⟨s.countInvalid.compact j.val, ?_, State.compact_n .., fun k hk => ?_, ?_⟩,
    fun hnone => ?_⟩
  · exact rescan_of_first hj (by omega) (hf.2 j) (passesByteCheck_iff_plausible.mpr hpj) fun k hk hkj =>
      hfails (by omega) (hfirst ⟨k, by omega⟩ hk hkj)
  · rw [compact_memRead (s := s.countInvalid) hf.1, Nat.sub_add_cancel hk]
    exact hf.2 k
  · exact compact_frame s.countInvalid j.val
  · exact rescan_of_none fun k hk _ => hfails (by omega) (hnone ⟨k, by omega⟩ hk)

/-! ### A valid frame, demultiplexed to the end -/

theorem andThen_of_next {r : Result} {k : State → Result} {u : State} (h : r = .next u) (hu : u.status = .running) :
    andThen r k = k u := by
  rw [h, andThen_next_running hu]

theorem execDemux_runs_of_channelKnown {s : State} {f : Fin 16 → Entry} (hr : s.status = .running)
    (hf : s.holdsFrame f) (hk : channelKnown s f) (ha : s.sinkAccepts 15) :
    ∃ t, execDemux s = .next t ∧ t.status = .running := by
  have hfirst (h : (f 0).byte.getLsbD 0 = true) (e : Entry) (he : s.memRead 0 = some e) : ctrlBit e.byte = true := by
    cases (hf.2 0).symm.trans he
    exact h
  obtain ⟨t, ht, htr, -⟩ := execDemux_runs (holdsFrame_full hf) hr ha (hk.imp_right hfirst)
  exact ⟨t, ht, htr⟩

/-- `DEMUX` answers as `Emits` says, whatever the offsets in the buffer. -/
theorem exists_emits_of_execDemux {s t : State} (h : execDemux s = .next t) : ∃ ps, Emits s t ps := by
  obtain ⟨ps, hps, -⟩ := execDemux_emits (offs := s.offAt) (fun _ _ he => offAt_of_memRead he) h
  exact ⟨ps, hps⟩

/-- Settles O24: the row's rule, and `DEMUX` runs to the end of a frame whose channel is known. -/
theorem validFrameWhileSearchingFrames : Obligations.ValidFrameWhileSearchingFrames := by
  intro s f hr hm hf hp
  have hrow : s.frameIs .searchValid = true := frameIs_of_passes hf hp (by rw [hm]; rfl)
  rw [exec, execSearchFrameValid_eq hr hf hrow]
  refine ⟨fun u hu => ?_, fun hk ha => ?_⟩
  · have hu' : execDemux (s.log (.validFrame (f 0).off)) = .next u := hu
    rw [hu', ← satInc_eq_saturated]
    exact ⟨andThen_next_running, andThen_next_ended⟩
  · obtain ⟨u, hu, hur⟩ :=
      execDemux_runs_of_channelKnown (s := s.log (.validFrame (f 0).off)) hr hf hk ha
    obtain ⟨ps, hps⟩ := exists_emits_of_execDemux hu
    refine ⟨_, andThen_of_next hu hur, hur, rfl, rfl, rfl, ?_⟩
    rw [← satInc_eq_saturated]
    exact congrArg satInc hps.totalValid

/-- Settles O25: the row's rule, and `DEMUX` runs to the end of a frame whose channel is known. -/
theorem validFrameWhileFramingStaysFramed : Obligations.ValidFrameWhileFramingStaysFramed := by
  intro s f hr hm hf hp
  have hrow : s.frameIs .valid = true := frameIs_of_passes hf hp (by rw [hm]; rfl)
  rw [exec, execFrameValid_eq hr hrow]
  refine ⟨fun u hu => ?_, fun hk ha => ?_⟩
  · have hu' : execDemux s = .next u := hu
    rw [hu', ← satInc_eq_saturated, ← satInc_eq_saturated]
    exact ⟨andThen_next_running, andThen_next_ended⟩
  · obtain ⟨u, hu, hur⟩ := execDemux_runs_of_channelKnown hr hf hk ha
    obtain ⟨ps, hps⟩ := exists_emits_of_execDemux hu
    refine ⟨_, andThen_of_next hu hur, hur, hps.mode.trans hm, rfl, ?_, ?_⟩
    · rw [← satInc_eq_saturated]
      exact congrArg satInc hps.consec
    · rw [← satInc_eq_saturated]
      exact congrArg satInc hps.totalValid

/-! ### Every completed frame is dealt with at once -/

/-- Each row runs to its end, where the frame's channel is known and the sink accepts. -/
theorem runFrameClass_runs {s : State} {f : Fin 16 → Entry} {c : FrameClass} (hr : s.status = .running)
    (hf : s.holdsFrame f) (hc : s.frameIs c = true) (hk : channelKnown s f) (ha : s.sinkAccepts 15) :
    ∃ t, runFrameClass c s = .next t ∧ t.status = .running := by
  cases c with
  | searchValid =>
    obtain ⟨u, hu, hur⟩ := execDemux_runs_of_channelKnown (s := s.log (.validFrame (f 0).off)) hr hf hk ha
    exact ⟨_, (execSearchFrameValid_eq hr hf hc).trans (andThen_of_next hu hur), hur⟩
  | searchInvalid =>
    have hread (j : Nat) (hj : j ∈ candidates) : (s.countInvalid.memRead j).isSome = true := by
      have hlt : 1 ≤ j ∧ j < 1 + 15 := List.mem_range'_1.mp hj
      exact (holdsFrame_full hf).2 j (by omega)
    obtain ⟨t, ht⟩ := rescan_runs hread
    refine ⟨t, (execSearchFrameInvalid_eq hr hc).trans ht, ?_⟩
    rcases rescan_eq_next ht with ⟨rfl, -⟩ | ⟨-, j, -, -, -, -, -, rfl, -⟩ <;> simpa using hr
  | valid =>
    obtain ⟨u, hu, hur⟩ := execDemux_runs_of_channelKnown hr hf hk ha
    exact ⟨_, (execFrameValid_eq hr hc).trans (andThen_of_next hu hur), hur⟩
  | invalidTolerated => exact ⟨_, execFrameInvalidTolerated_eq hr hf hc, hr⟩
  | invalidResume => exact ⟨_, execFrameInvalidResume_eq hr hf hc, hr⟩

theorem execFrameComplete_runs {s : State} {f : Fin 16 → Entry} (hr : s.status = .running)
    (hm : s.mode = .searching ∨ s.mode = .framing) (hf : s.holdsFrame f) (hk : channelKnown s f)
    (ha : s.sinkAccepts 15) : ∃ t, execFrameComplete s = .next t ∧ t.status = .running := by
  obtain ⟨ok, hok⟩ := Option.isSome_iff_exists.mp (full_frameOk (holdsFrame_full hf))
  obtain ⟨c, hc⟩ := frameClass_of_not_syncing hm ok s.consec
  rw [execFrameComplete_eq hr hf.1 hok hc]
  exact runFrameClass_runs (s := s.setVerdict ok) hr hf (by simpa using (frameIs_iff hf.1 hok).mpr hc) hk ha

/-- A frame that does not end the run leaves room in the buffer (R127 to R131). -/
theorem FrameEffect.fill_le {s t : State} (h : FrameEffect s t) (ht : t.status = .running) : t.n.val ≤ 15 := by
  cases h with
  | searchStopped e u ps hm hf he hd hu hps => exact absurd ht hu
  | stopped u ps hm hf hd hu hps => exact absurd ht hu
  | compacted j e hm hf hj => rw [State.compact_n]; omega
  | searchValid | emptied | valid | tolerated | resumed => exact Nat.zero_le 15

/-- A frame that passes the check and does not end the run counts as valid and leaves `Framing`, the buffer empty. -/
theorem FrameEffect.of_passed {s t : State} (h : FrameEffect s t) (hok : s.frameOk = some true)
    (ht : t.status = .running) :
    t.totalValid = satInc s.totalValid ∧ t.totalInvalid = s.totalInvalid ∧ t.mode = .framing ∧ t.n = 0 := by
  cases h with
  | searchValid e u ps hm hf he hd hu hps => exact ⟨congrArg satInc hps.totalValid, hps.totalInvalid, rfl, rfl⟩
  | valid u ps hm hf hd hu hps =>
    exact ⟨congrArg satInc hps.totalValid, hps.totalInvalid, hps.mode.trans hm, rfl⟩
  | searchStopped e u ps hm hf he hd hu hps => exact absurd ht hu
  | stopped u ps hm hf hd hu hps => exact absurd ht hu
  | compacted j e hm hf => simp [hok] at hf
  | emptied hm hf => simp [hok] at hf
  | tolerated e hm hf => simp [hok] at hf
  | resumed e hm hf => simp [hok] at hf

/-- A frame that fails the check counts as invalid and is not demultiplexed. -/
theorem FrameEffect.of_failed {s t : State} (h : FrameEffect s t) (hok : s.frameOk = some false) :
    t.totalInvalid = satInc s.totalInvalid ∧ t.totalValid = s.totalValid ∧ t.curId = s.curId ∧
      t.delivered = s.delivered ∧ t.answers = s.answers := by
  cases h with
  | compacted j e => simp
  | emptied => exact ⟨rfl, rfl, rfl, rfl, rfl⟩
  | tolerated e => exact ⟨rfl, rfl, rfl, State.emit_diag_delivered .., rfl⟩
  | resumed e => exact ⟨rfl, rfl, rfl, State.emit_diag_delivered .., rfl⟩
  | searchValid e u ps hm hf => simp [hok] at hf
  | searchStopped e u ps hm hf => simp [hok] at hf
  | valid u ps hm hf => simp [hok] at hf
  | stopped u ps hm hf => simp [hok] at hf

/-- Settles O29: the frame's row runs to its end, and its effect is one of those of R127 to R131. -/
theorem completedFrameIsDealtWithAtOnce : Obligations.CompletedFrameIsDealtWithAtOnce := by
  intro s f hr hm hf hk ha
  obtain ⟨t, ht, htr⟩ := execFrameComplete_runs hr hm hf hk ha
  obtain ⟨-, -, -, ok, hok, he⟩ := execFrameComplete_effect ht
  have hok' : (s.setVerdict ok).frameOk = some ok := (setVerdict_frameOk s ok).trans hok
  rw [← satInc_eq_saturated, ← satInc_eq_saturated]
  refine ⟨t, ht, htr, he.fill_le htr, fun hp => ?_, fun hp => ?_⟩
  · cases hok.symm.trans (frameOk_of_passes hf hp)
    exact he.of_passed hok' htr
  · cases hok.symm.trans (frameOk_of_fails hf hp)
    exact he.of_failed hok'

end Sys2Proof.Machine
end

section
/-! PROOFS. A whole `BYTE` event (R120, R121): it is the operation its byte decodes to, it runs to its end where the
channel is known and the sink accepts, and while `Searching` it cannot lack a Current Channel ID (R136). -/

namespace Sys2Proof.Machine

/-! ### The class's operation -/

theorem offset_ne_allOnes {o : Offset} (h : o.toNat < 2 ^ 64 - 1) : o ≠ BitVec.allOnes Config.offsetBits :=
  mt (offset_eq_allOnes_iff o).mp (Nat.ne_of_lt h)

/-- The operation of the matcher's class has the class's meaning. -/
theorem exec_matchClass_instr (c : MatchClass) (b : Byte) (ts : Timestamp) (s : State) :
    exec (c.instr b ts) s = runMatchClass c b ts s := by
  cases c <;> rfl

/-- Settles O7: the decoder reads the class the event runs, and the transition check passes whatever it does. -/
theorem byteEventRunsTheClassItDecodesTo : Obligations.ByteEventRunsTheClassItDecodesTo := by
  intro s b ts i hr ho hd
  have hread : decode (.matcher s.mode s.n.val) (b :: word64Bytes ts) = .ok ((s.matchClassOf b).instr b ts) :=
    (decode_matcher_eq_ok _).mpr rfl
  cases hread.symm.trans hd
  rw [exec_matchClass_instr]
  exact execByte_eq hr (offset_ne_allOnes ho)

/-! ### An event runs to its end -/

/-- A full buffer holds some frame. -/
theorem exists_holdsFrame {s : State} (h : s.full) : ∃ f : Fin 16 → Entry, s.holdsFrame f := by
  have hread (j : Fin 16) : ∃ e, s.memRead j.val = some e := Option.isSome_iff_exists.mp (h.2 j.val j.isLt)
  choose f hf using hread
  exact ⟨f, h.1, hf⟩

/-- A byte handed on with an empty buffer leaves the run going (R106, R123, R124). -/
theorem execNoSync_runs {s : State} {b : Byte} (ts : Timestamp) (hr : s.status = .running)
    (hc : s.matchClassOf b = .noSync) : ∃ t, execNoSync b ts s = .next t ∧ t.status = .running := by
  obtain ⟨hm, hn, hb⟩ := matchClass_noSync.mp hc
  have hn' : s.n = 0 := Fin.val_eq_zero_iff.mp hn
  rcases hm with hm | hm
  · refine ⟨_, execNoSync_searching ts hr hn' hb hm, ?_⟩
    split <;> simpa using hr
  · exact ⟨_, execNoSync_framing ts hr hn' hb hm, by simpa using hr⟩

/-- A byte of a partly collected frame is stored, and the sixteenth's frame is dealt with (R125, R126). -/
theorem execFrameByte_runs {s : State} {b : Byte} (ts : Timestamp) (h : s.Counted)
    (hc : s.matchClassOf b = .frameByte) (hid : s.curId.isSome = true) (ha : s.sinkAccepts 15) :
    ∃ t, execFrameByte b ts s = .next t ∧ t.status = .running := by
  obtain ⟨hm, hn⟩ := matchClass_frameByte.mp hc
  have hle := h.fill
  rcases Nat.lt_or_ge s.n.val 15 with hlt | hge
  · exact ⟨_, execFrameByte_stores b ts h.running hm (by omega) hlt, by simpa using h.running⟩
  · have h15 : s.n.val = 15 := by omega
    obtain ⟨f, hf⟩ := exists_holdsFrame (h.append_full (s.entryOf b ts) h15)
    rw [execFrameByte_completes ts h.running b hm h15]
    exact execFrameComplete_runs (by simpa using h.running) (by simpa using hm) hf (.inl (by simpa using hid))
      (by simpa [State.sinkAccepts] using ha)

/-- Every class of byte runs to its end, where there is a Current Channel ID and the sink accepts. -/
theorem runMatchClass_runs {s : State} (h : s.Counted) (b : Byte) (ts : Timestamp) (hid : s.curId.isSome = true)
    (ha : s.sinkAccepts 15) : ∃ t, runMatchClass (s.matchClassOf b) b ts s = .next t ∧ t.status = .running := by
  cases hc : consumed (s.matchClassOf b) s.mode.code.toNat s.offset with
  | some p =>
    obtain ⟨m, -, ht⟩ := runMatchClass_of_consumed (code := p.1) (ds := p.2) ts h.running hc
    exact ⟨_, ht, h.running⟩
  | none =>
    have hclass := matchClassOf_of_not_consumed hc
    by_cases hn : s.n = 0
    · rw [if_pos hn] at hclass
      rw [hclass]
      exact execNoSync_runs ts h.running hclass
    · rw [if_neg hn] at hclass
      rw [hclass]
      exact execFrameByte_runs ts h hclass hid ha

/-- Settles O42: the byte's class runs to its end; the count and the room in the buffer are what every event keeps. -/
theorem byteEventIsProcessedCompletely : Obligations.ByteEventIsProcessedCompletely := by
  intro s b ts h hr ho hid ha
  have hc := countByte_counted h hr (offset_ne_allOnes ho)
  obtain ⟨t, ht, htr⟩ := runMatchClass_runs hc b ts hid ha
  have hb := runMatchClass_effect ht
  exact ⟨t, (execByte_eq hr (offset_ne_allOnes ho)).trans ht, htr, hb.keeps.offset, (hb.inv hc).fill_le htr⟩

/-! ### `FAULT_NO_CURRENT_ID` while `Searching` -/

/-- What a part of the demultiplexer leaves that had a Current Channel ID or brought one: no fault for lack of one, and,
where the run goes on, a Current Channel ID for the next part (R136, R173). -/
def State.Identified (t : State) : Prop :=
  t.status ≠ .faultNoCurrentId ∧ (t.status = .running → t.curId.isSome = true)

theorem identified_of_curId {t : State} (hs : t.status ≠ .faultNoCurrentId) (hc : t.curId.isSome = true) :
    t.Identified := ⟨hs, fun _ => hc⟩

/-- `SEND` ends a run only for the sink, and leaves the Current Channel ID. -/
theorem execSend_no_fault {s t : State} {id : ChanId} {d : Byte} {off : Offset} {ts : Timestamp}
    (h : execSend id d off ts s = .next t) : t.status ≠ .faultNoCurrentId ∧ t.curId = s.curId := by
  obtain ⟨hr, ⟨-, rfl⟩ | ⟨-, rest, -, rfl⟩ | ⟨-, e, rest, -, rfl⟩⟩ := execSend_eq_next h
  · exact ⟨by simp [hr], rfl⟩
  · exact ⟨by simp [hr], rfl⟩
  · exact ⟨by simp, rfl⟩

theorem andThen_identified {r : Result} {k : State → Result} {t : State} (h : andThen r k = .next t)
    (hr : ∀ u, r = .next u → u.status ≠ .faultNoCurrentId)
    (hk : ∀ u, r = .next u → k u = .next t → t.Identified) : t.Identified := by
  obtain ⟨u, hu, ⟨-, h⟩ | ⟨hn, rfl⟩⟩ := andThen_eq_next.mp h
  · exact hk u hu h
  · exact ⟨hr u hu, fun hur => absurd hur hn⟩

/-- A packet and then the write of `cur_id` (R151, R152). -/
theorem send_setCurId_identified {s t : State} {id c : ChanId} {d : Byte} {off : Offset} {ts : Timestamp}
    (h : andThen (execSend id d off ts s) (fun u => .next (u.setCurId c)) = .next t) : t.Identified := by
  refine andThen_identified h (fun u hu => (execSend_no_fault hu).1) fun u hu ht => ?_
  cases ht
  exact identified_of_curId (execSend_no_fault hu).1 rfl

/-- A half-word with a Current Channel ID, or one that brings an ID. -/
theorem runHalfClass_identified {i : HalfIndex} {lo hi : Entry} {s t : State}
    (hid : s.curId.isSome = true ∨ ctrlBit lo.byte = true)
    (h : runHalfClass (s.halfClassOf i lo) i lo hi s = .next t) : t.Identified := by
  cases hc : s.halfClassOf i lo with
  | idImm =>
    rw [hc] at h
    obtain ⟨-, -, h⟩ := whileRunning_eq_next.mp h
    exact send_setCurId_identified h
  | idDelay =>
    rw [hc] at h
    obtain ⟨-, -, h⟩ := whileRunning_eq_next.mp h
    split at h
    · exact send_setCurId_identified h
    · cases h
  | idOrphan =>
    rw [hc] at h
    obtain ⟨hr, -, h⟩ := whileRunning_eq_next.mp h
    cases h
    exact identified_of_curId (by simp [hr]) rfl
  | data =>
    have hctrl : ctrlBit lo.byte = false := halfClass_eq_data.mp hc
    obtain ⟨c, hs⟩ := Option.isSome_iff_exists.mp (hid.resolve_right (by simp [hctrl]))
    rw [hc] at h
    obtain ⟨-, -, h⟩ := whileRunning_eq_next.mp h
    rw [hs] at h
    refine andThen_identified h (fun u hu => (execSend_no_fault hu).1) fun u hu ht => ?_
    obtain ⟨hst, hct⟩ := execSend_no_fault ht
    exact identified_of_curId hst (by rw [hct, (execSend_no_fault hu).2, hs]; rfl)

/-- The last half-word with a Current Channel ID. -/
theorem demuxLast_identified {s t : State} (hid : s.curId.isSome = true) (h : demuxLast s = .next t) :
    t.Identified := by
  obtain ⟨lo, -, h⟩ := withEntry_eq_next.mp h
  obtain ⟨hi, -, h⟩ := withEntry_eq_next.mp h
  obtain ⟨c, hs⟩ := Option.isSome_iff_exists.mp hid
  split at h
  · obtain ⟨hr, -, h⟩ := whileRunning_eq_next.mp h
    cases h
    exact identified_of_curId (by simp [hr]) rfl
  · obtain ⟨-, -, h⟩ := whileRunning_eq_next.mp h
    rw [hs] at h
    obtain ⟨hst, hct⟩ := execSend_no_fault h
    exact identified_of_curId hst (by rw [hct, hs]; rfl)

/-- Once a half-word has a Current Channel ID or brings one, every later half-word has one. -/
theorem demuxWalk_identified {is : List HalfIndex} {s t : State}
    (hid : s.curId.isSome = true ∨
      ∃ i is', is = i :: is' ∧ ∀ e, s.memRead (2 * i.val) = some e → ctrlBit e.byte = true)
    (h : demuxWalk is s = .next t) : t.Identified := by
  induction is generalizing s with
  | nil => exact demuxLast_identified (hid.resolve_right (by simp)) h
  | cons i is ih =>
    have hfirst (u : State) (hu : demuxHalf i s = .next u) : u.Identified := by
      obtain ⟨lo, hlo, hu⟩ := withEntry_eq_next.mp hu
      obtain ⟨hi, -, hu⟩ := withEntry_eq_next.mp hu
      refine runHalfClass_identified (hid.imp_right ?_) hu
      rintro ⟨i', is', heq, hctrl⟩
      cases heq
      exact hctrl lo hlo
    obtain ⟨u, hu, ⟨hur, h⟩ | ⟨-, rfl⟩⟩ := andThen_eq_next.mp h
    · exact ih (.inl ((hfirst u hu).2 hur)) h
    · exact hfirst u hu

/-- A frame that begins with an ID is demultiplexed without a fault for lack of one (R136). -/
theorem execDemux_identified {s t : State} (hfirst : ∀ e, s.memRead 0 = some e → ctrlBit e.byte = true)
    (h : execDemux s = .next t) : t.Identified := by
  rw [execDemux_eq] at h
  obtain ⟨hr, -, h⟩ := whileRunning_eq_next.mp h
  obtain ⟨e, -, h⟩ := withEntry_eq_next.mp h
  rw [execAux_running hr, andThen_next_running (by simpa using hr)] at h
  exact demuxWalk_identified (s := s.setAuxVec (auxVector e.byte)) (.inr ⟨0, _, rfl, hfirst⟩) h

theorem FrameEffect.no_fault_of_searching {s t : State} (h : FrameEffect s t) (hr : s.status = .running)
    (hm : s.mode = .searching) (hfirst : ∀ e, s.memRead 0 = some e → ctrlBit e.byte = true) :
    t.status ≠ .faultNoCurrentId := by
  cases h with
  | searchValid e u ps hm hf he hd hu hps => simp [hu]
  | searchStopped e u ps hm hf he hd hu hps =>
    exact (execDemux_identified (s := s.log (.validFrame e.off)) hfirst hd).1
  | compacted j e => simp [hr]
  | emptied => simp [hr]
  | valid u ps hm' => cases hm.symm.trans hm'
  | stopped u ps hm' => cases hm.symm.trans hm'
  | tolerated e hm' => cases hm.symm.trans hm'
  | resumed e hm' => cases hm.symm.trans hm'

/-- While `Searching` entry 0 passed the byte check, so a completed frame begins with an ID (R44(c), R136). -/
theorem ByteEffect.no_fault_of_searching {b : Byte} {ts : Timestamp} {s t : State} (h : ByteEffect b ts s t)
    (hc : s.Counted) (hm : s.mode = .searching) : t.status ≠ .faultNoCurrentId := by
  have hr := hc.running
  cases h with
  | completed ok t hm' hn hf h =>
    obtain ⟨hheld, -, -⟩ := hc.append b ts hm' (by omega)
    have hm₁ : (s.append (s.entryOf b ts)).mode = .searching := by simpa using hm
    exact h.no_fault_of_searching (by simpa using hr) hm₁ fun e he =>
      ctrlBit_of_passesByteCheck (hheld.candidate hm₁ e he)
  | sync | report | accepted | discarded | first | stored => simp [hr]

/-- Settles O48: the invariant's candidate clause gives the frame its first ID. -/
theorem searchingNeverFaultsForLackOfAnId : Obligations.SearchingNeverFaultsForLackOfAnId := by
  intro s t b ts h hm ht
  obtain ⟨hr, ho, hb⟩ := execByte_effect ht
  exact hb.no_fault_of_searching (countByte_counted h hr ho) hm

end Sys2Proof.Machine
end

section
/-! PROOFS. The frame validator (R140 to R142): each check hands over the answer its rule states and writes nothing else;
the frame check's answer is settled by the low bytes, the table above the NULL ID and the policy. -/

namespace Sys2Proof.Machine

/-! ### `BYTE_CHECK` -/

theorem execByteCheck_running {s : State} (hr : s.status = .running) (b : Byte) :
    execByteCheck b s = .next (s.setVerdict (passesByteCheck s.member b)) := whileRunning_running hr

/-- Settles O21: the answer is the byte check's, in the numbers of R140. -/
theorem byteCheckAsksControlBitAndMembership : Obligations.ByteCheckAsksControlBitAndMembership := by
  refine fun s b hr => ⟨fun hp => ?_, fun hp => ?_⟩
  · rw [exec, execByteCheck_running hr, passesByteCheck_iff_plausible.mpr hp]
    rfl
  · rw [exec, execByteCheck_running hr, Bool.eq_false_iff.mpr (mt passesByteCheck_iff_plausible.mp hp)]
    rfl

/-! ### `FRAME_CHECK` -/

theorem execFrameCheck_of_frameOk {s : State} {ok : Bool} (hr : s.status = .running) (hn : s.n.val = 16)
    (hok : s.frameOk = some ok) : execFrameCheck s = .next (s.setVerdict ok) := by
  rw [execFrameCheck, whileRunning_of hr (by simp [hn, Config.frameSize]), hok]

/-- Settles O22: the answer on a full buffer is R141's, whichever it is. -/
theorem frameCheckRejectsExactlyTheViolations : Obligations.FrameCheckRejectsExactlyTheViolations := fun _ _ hr hf =>
  ⟨fun hp => execFrameCheck_of_frameOk hr hf.1 (frameOk_of_passes hf hp),
    fun hp => execFrameCheck_of_frameOk hr hf.1 (frameOk_of_fails hf hp)⟩

/-- A frame check that answers hands over what the buffer, the table and the policy say. -/
theorem verdict_of_execFrameCheck {s t : State} (h : execFrameCheck s = .next t) : t.verdict = s.frameOk := by
  obtain ⟨-, -, h⟩ := whileRunning_eq_next.mp h
  split at h
  next ok hok => cases h; rw [hok, State.setVerdict_verdict]
  next => cases h

/-- R142: a frame that passes still passes when only the high bytes, the Entries' offsets and timestamps, the table's
entries outside 1 to 127 and the rest of the state are changed. A NULL ID passes without the table being asked. -/
theorem framePasses_of_agree {s s' : State} {f f' : Fin 16 → Entry}
    (hlow : ∀ i : Fin 8, (f ⟨2 * i.val, by omega⟩).byte = (f' ⟨2 * i.val, by omega⟩).byte)
    (hmember : ∀ k, 1 ≤ k → k ≤ 127 → s.member.getLsbD k = s'.member.getLsbD k) (hintermix : s.intermix = s'.intermix)
    (hp : framePasses s f) : framePasses s' f' := by
  intro i hctrl
  rw [← hlow i] at hctrl ⊢
  rcases Nat.eq_zero_or_pos ((f ⟨2 * i.val, by omega⟩).byte.toNat / 2) with hnull | hpos
  · exact .inl hnull
  · have hle : (f ⟨2 * i.val, by omega⟩).byte.toNat / 2 ≤ 127 := by
      have := (f ⟨2 * i.val, by omega⟩).byte.isLt
      omega
    rw [← hmember _ hpos hle, ← hintermix]
    exact hp i hctrl

/-- Settles O23: agreement goes both ways, so both frames pass or both fail. -/
theorem frameCheckReadsOnlyLowBytes : Obligations.FrameCheckReadsOnlyLowBytes := by
  intro s s' f f' t t' hf hf' hlow hmember hintermix h h'
  rw [verdict_of_execFrameCheck h, verdict_of_execFrameCheck h']
  have hiff : framePasses s f ↔ framePasses s' f' :=
    ⟨framePasses_of_agree hlow hmember hintermix,
      framePasses_of_agree (fun i => (hlow i).symm) (fun k h1 h2 => (hmember k h1 h2).symm) hintermix.symm⟩
  by_cases hp : framePasses s f
  · rw [frameOk_of_passes hf hp, frameOk_of_passes hf' (hiff.mp hp)]
  · rw [frameOk_of_fails hf hp, frameOk_of_fails hf' (mt hiff.mpr hp)]

end Sys2Proof.Machine
end

section
/-! PROOFS. The NULL filter and the sink (R157) and the half-word operations (R151 to R156). `SEND` has three answers, one
for each thing the sink can do, in the words of the statements (`sentOk`, `sentRefused`); each half-word operation is its
class check followed by its sends. -/

namespace Sys2Proof.Machine

/-! ### `SEND` -/

section
variable {s : State} {id : ChanId} {d : Byte} {e : Entry} {err : ErrValue}

@[simp] theorem sentOk_status : (sentOk s id d e).status = s.status := by unfold sentOk; split <;> rfl
@[simp] theorem sentOk_curId : (sentOk s id d e).curId = s.curId := by unfold sentOk; split <;> rfl
@[simp] theorem sentOk_auxVec : (sentOk s id d e).auxVec = s.auxVec := by unfold sentOk; split <;> rfl
@[simp] theorem sentOk_n : (sentOk s id d e).n = s.n := by unfold sentOk; split <;> rfl
@[simp] theorem sentOk_memRead (j : Nat) : (sentOk s id d e).memRead j = s.memRead j := by unfold sentOk; split <;> rfl

theorem sentOk_null : sentOk s 0 d e = s := if_pos rfl

theorem sentOk_of_ne_null (hid : id ≠ 0) :
    sentOk s id d e = (s.takeAnswer s.answers.tail).emit (.packet (mkPacket id d e.off e.ts)) := if_neg hid

theorem sentOk_answers (hid : id ≠ 0) : (sentOk s id d e).answers = s.answers.tail := by
  rw [sentOk_of_ne_null hid, State.emit_answers, State.takeAnswer_answers]

/-- R157: a NULL packet, or one the sink takes. -/
theorem execSend_accepted_eq (hr : s.status = .running) (ha : acceptsNext s id) :
    execSend id d e.off e.ts s = .next (sentOk s id d e) := by
  rcases eq_or_ne id 0 with rfl | hid
  · rw [execSend_null hr, sentOk_null]
  · obtain ⟨rest, hrest⟩ := List.head?_eq_some_iff.mp (ha.resolve_left hid)
    rw [execSend_ok hr hid hrest, sentOk_of_ne_null hid, hrest, List.tail_cons]

/-- R157, R172: a packet the sink refuses ends the run. -/
theorem execSend_refused_eq (hr : s.status = .running) (hid : id ≠ 0) (ha : s.answers.head? = some (.err err)) :
    execSend id d e.off e.ts s = .next (sentRefused s id d e err) := by
  obtain ⟨rest, hrest⟩ := List.head?_eq_some_iff.mp ha
  rw [execSend_err hr hid hrest, sentRefused, hrest]
  simp [State.terminate, State.emit, State.takeAnswer, mkPacket]

/-- R68, I10: an offered packet without an answer leaves the block stuck. -/
theorem execSend_unanswered (hr : s.status = .running) (hid : id ≠ 0) (ha : s.answers = []) :
    execSend id d e.off e.ts s = .fault .awaitingSinkAnswer := by
  rw [execSend, whileRunning_running hr, if_neg (show ¬ id = Config.nullId from hid), ha]

/-- What follows a send goes on after a packet that is taken, -/
theorem andThen_execSend_accepted (hr : s.status = .running) (ha : acceptsNext s id) (k : State → Result) :
    andThen (execSend id d e.off e.ts s) k = k (sentOk s id d e) :=
  andThen_of_next (execSend_accepted_eq hr ha) (sentOk_status.trans hr)

/-- and is not done after one that is refused (R172, R177). -/
theorem andThen_execSend_refused (hr : s.status = .running) (hid : id ≠ 0) (ha : s.answers.head? = some (.err err))
    (k : State → Result) : andThen (execSend id d e.off e.ts s) k = .next (sentRefused s id d e err) := by
  rw [execSend_refused_eq hr hid ha]
  exact andThen_next_ended (nofun : Status.abortedSink ≠ .running)

theorem State.sinkAccepts.acceptsNext {k : Nat} (h : s.sinkAccepts (k + 1)) (id : ChanId) : acceptsNext s id := by
  obtain ⟨rest, hrest⟩ := h
  exact .inr (by rw [hrest]; rfl)

/-- A packet uses up at most one answer of the sink. -/
theorem State.sinkAccepts.sentOk {k : Nat} (h : s.sinkAccepts (k + 1)) : (sentOk s id d e).sinkAccepts k := by
  rcases eq_or_ne id 0 with rfl | hid
  · exact sentOk_null.symm ▸ sinkAccepts_mono (Nat.le_succ k) h
  · obtain ⟨rest, hrest⟩ := h
    exact ⟨rest, by rw [sentOk_answers hid, hrest]; rfl⟩

end

/-- Settles O37: the three answers of `SEND`, and `SINK_ERR` as the entry into its terminal status. -/
theorem sendFiltersNullAndOffersTheRest : Obligations.SendFiltersNullAndOffersTheRest := fun _ _ _ _ hr =>
  ⟨execSend_accepted_eq hr, fun _ => execSend_refused_eq hr, execSend_unanswered hr, fun _ => whileRunning_running hr⟩

/-! ### Half-words with an ID -/

section
variable {s : State} {k : HalfIndex} {lo hi : Entry} {c : ChanId}

theorem execHwIdImm_running (hr : s.status = .running) (hctrl : ctrlBit lo.byte = true)
    (haux : auxBit s.auxVec k = false) : execHwIdImm k lo hi s =
      andThen (execSend (idField lo.byte) hi.byte hi.off hi.ts s) fun t => .next (t.setCurId (idField lo.byte)) :=
  whileRunning_of hr (beq_iff_eq.mpr (halfClass_eq_idImm.mpr ⟨hctrl, haux⟩))

theorem execHwIdDelay_running (hr : s.status = .running) (hctrl : ctrlBit lo.byte = true)
    (haux : auxBit s.auxVec k = true) (hc : s.curId = some c) : execHwIdDelay k lo hi s =
      andThen (execSend c hi.byte hi.off hi.ts s) fun t => .next (t.setCurId (idField lo.byte)) := by
  have hcl : s.halfClassOf k lo = .idDelay := halfClass_eq_idDelay.mpr ⟨hctrl, haux, by rw [State.curValid, hc]; rfl⟩
  rw [execHwIdDelay, whileRunning_of hr (beq_iff_eq.mpr hcl), hc]

theorem execHwIdOrphan_running (hr : s.status = .running) (hctrl : ctrlBit lo.byte = true)
    (haux : auxBit s.auxVec k = true) (hc : s.curId = none) : execHwIdOrphan k lo hi s =
      .next ((s.countOrphan.log (.orphanedByte hi.off)).setCurId (idField lo.byte)) :=
  whileRunning_of hr (beq_iff_eq.mpr (halfClass_eq_idOrphan.mpr ⟨hctrl, haux, by rw [State.curValid, hc]; rfl⟩))

end

/-- Settles O31: the send goes out under the new ID, which is written after it. -/
theorem undelayedIdTagsItsByteWithTheNewId : Obligations.UndelayedIdTagsItsByteWithTheNewId :=
  fun _ _ _ _ hr hctrl haux => ⟨fun ha => (execHwIdImm_running hr hctrl haux).trans (andThen_execSend_accepted hr ha _),
    fun _ hid he => (execHwIdImm_running hr hctrl haux).trans (andThen_execSend_refused hr hid he _)⟩

/-- Settles O32: the send goes out under the old ID, and the new one is written after it. -/
theorem delayedIdTagsItsByteWithTheOldId : Obligations.DelayedIdTagsItsByteWithTheOldId :=
  fun _ _ _ _ _ hr hctrl haux hc => ⟨fun ha => (execHwIdDelay_running hr hctrl haux hc).trans (andThen_execSend_accepted hr ha _),
    fun _ hid he => (execHwIdDelay_running hr hctrl haux hc).trans (andThen_execSend_refused hr hid he _)⟩

/-- Settles O33: the byte is counted and reported instead of sent. -/
theorem orphanedByteIsDroppedAndCounted : Obligations.OrphanedByteIsDroppedAndCounted := by
  intro s k lo hi hr hctrl haux hc
  rw [← satInc_eq_saturated]
  exact execHwIdOrphan_running hr hctrl haux hc

/-- Settles O35: the ID is written whatever the aux byte is. -/
theorem lastIdIsAnnouncedWithoutAPacket : Obligations.LastIdIsAnnouncedWithoutAPacket := fun _ _ _ hr hctrl =>
  whileRunning_of hr hctrl

/-! ### Half-words with data -/

section
variable {s : State} {k : HalfIndex} {lo hi : Entry} {c : ChanId}

/-- R81(b): the seven bits of the low byte, and the aux bit below them. -/
theorem dataDatum_toNat (b : Byte) (aux : Bool) : (dataDatum b aux).toNat = 2 * (b.toNat / 2) + aux.toNat := by
  have hb : b.toNat < 256 := b.isLt
  have haux : aux.toNat < 2 := aux.toNat_lt
  have hid : b.toNat / 2 % 256 = b.toNat / 2 := Nat.mod_eq_of_lt (by omega)
  have hshift : (b.toNat / 2) <<< 1 = 2 * (b.toNat / 2) := by rw [Nat.shiftLeft_eq]; omega
  calc (dataDatum b aux).toNat = (b.toNat / 2) <<< 1 % 256 ||| aux.toNat % 256 := by
        simp [dataDatum, idField_toNat, hid]
    _ = (b.toNat / 2) <<< 1 ||| aux.toNat := by
        rw [Nat.mod_eq_of_lt (by omega), Nat.mod_eq_of_lt (by omega)]
    _ = 2 * (b.toNat / 2) + aux.toNat := by
        rw [← Nat.shiftLeft_add_eq_or_of_lt (i := 1) (by omega), hshift]

/-- R79: a clear control bit makes a half-word data, whatever the state. -/
theorem halfClassOf_data (hctrl : ctrlBit lo.byte = false) : (s.halfClassOf k lo == .data) = true :=
  beq_iff_eq.mpr (halfClass_eq_data.mpr hctrl)

theorem execHwData_none (hr : s.status = .running) (hctrl : ctrlBit lo.byte = false) (hc : s.curId = none) :
    execHwData k lo hi s = .next (s.raiseNoCurrentId k.castSucc lo.off) := by
  rw [execHwData, whileRunning_of hr (halfClassOf_data hctrl), hc]

theorem execHwData_some (hr : s.status = .running) (hctrl : ctrlBit lo.byte = false) (hc : s.curId = some c) :
    execHwData k lo hi s = andThen (execSend c (dataDatum lo.byte (auxBit s.auxVec k)) lo.off lo.ts s)
      (execSend c hi.byte hi.off hi.ts) := by
  rw [execHwData, whileRunning_of hr (halfClassOf_data hctrl), hc]

theorem execHwLastData_none (x : Byte) (hr : s.status = .running) (hctrl : ctrlBit lo.byte = false)
    (hc : s.curId = none) : execHwLastData lo x s = .next (s.raiseNoCurrentId lastHalfIndex lo.off) := by
  rw [execHwLastData, whileRunning_of hr (by rw [hctrl]; rfl), hc]

theorem execHwLastData_some (x : Byte) (hr : s.status = .running) (hctrl : ctrlBit lo.byte = false)
    (hc : s.curId = some c) : execHwLastData lo x s = execSend c lo.byte lo.off lo.ts s := by
  rw [execHwLastData, whileRunning_of hr (by rw [hctrl]; rfl), hc]

end

/-- Settles O34: the fault, or two sends under the Current Channel ID, cut short where the sink refuses. -/
theorem dataHalfWordGivesTwoPacketsOrFaults : Obligations.DataHalfWordGivesTwoPacketsOrFaults := by
  refine fun s k lo hi hr hctrl => ⟨execHwData_none hr hctrl, fun c hc => ⟨_, dataDatum_toNat lo.byte _, ?_⟩⟩
  rw [exec, execHwData_some hr hctrl hc]
  refine ⟨fun ha => ?_, fun err hid he => andThen_execSend_refused hr hid he _, fun err rest hid he => ?_⟩
  · have hfirst : acceptsNext s c := ha.elim .inl (·.acceptsNext c)
    have hsecond (d : Byte) : acceptsNext (sentOk s c d lo) c := ha.elim .inl (·.sentOk.acceptsNext c)
    rw [andThen_execSend_accepted hr hfirst]
    exact execSend_accepted_eq (sentOk_status.trans hr) (hsecond _)
  · rw [andThen_execSend_accepted hr (.inr (by rw [he]; rfl))]
    exact execSend_refused_eq (sentOk_status.trans hr) hid (by rw [sentOk_answers hid, he]; rfl)

/-- Settles O36: the fault, or the one send under the Current Channel ID. -/
theorem lastDataGivesOnePacketOrFaults : Obligations.LastDataGivesOnePacketOrFaults := fun _ _ x hr hctrl =>
  ⟨execHwLastData_none x hr hctrl,
    fun _ hc ha => (execHwLastData_some x hr hctrl hc).trans (execSend_accepted_eq hr ha),
    fun _ _ hc hid he => (execHwLastData_some x hr hctrl hc).trans (execSend_refused_eq hr hid he)⟩

end Sys2Proof.Machine
end

section
/-! PROOFS. `DEMUX` over a whole frame (R150, R158 to R160): the walk is the decoder's rows in index order, it runs to the
end where the channel is known, and its packets rise in offset. -/

namespace Sys2Proof.Machine

/-! ### The walk over a frame held in the buffer -/

/-- The low Entry of half-word `k` of a frame (R71). -/
abbrev lowEntry (f : Fin 16 → Entry) (k : Fin 7) : Entry := f ⟨2 * k.val, by omega⟩

/-- The high Entry of half-word `k` of a frame (R71). -/
abbrev highEntry (f : Fin 16 → Entry) (k : Fin 7) : Entry := f ⟨2 * k.val + 1, by omega⟩

theorem exec_halfClass_instr (c : HalfClass) (k : HalfIndex) (lo hi : Entry) (s : State) :
    exec (c.instr k lo hi) s = runHalfClass c k lo hi s := by cases c <;> rfl

namespace State.holdsFrame

variable {s t : State} {f : Fin 16 → Entry}

theorem of_same_buffer (h : s.holdsFrame f) (hn : t.n = s.n) (hread : ∀ j, t.memRead j = s.memRead j) :
    t.holdsFrame f :=
  ⟨hn ▸ h.1, fun j => (hread j.val).trans (h.2 j)⟩

theorem demuxHalf_eq (h : s.holdsFrame f) (k : Fin 7) : demuxHalf k s =
    runHalfClass (s.halfClassOf k (lowEntry f k)) k (lowEntry f k) (highEntry f k) s := by
  have hlo : 2 * k.val < 16 := by omega
  have hhi : 2 * k.val + 1 < 16 := by omega
  rw [demuxHalf, withEntry_some (holdsFrame_read h hlo), withEntry_some (holdsFrame_read h hhi)]

theorem demuxLast_eq (h : s.holdsFrame f) : demuxLast s =
    if ctrlBit (f 14).byte then execHwLastId (f 14) (f 15).byte s else execHwLastData (f 14) (f 15).byte s := by
  rw [Machine.demuxLast_eq, withEntry_some (holdsFrame_read h (by omega)),
    withEntry_some (holdsFrame_read h (by omega))]
  rfl

theorem execDemux_eq (h : s.holdsFrame f) (hr : s.status = .running) :
    execDemux s = demuxWalk [0, 1, 2, 3, 4, 5, 6] (s.setAuxVec (auxVector (f 15).byte)) := by
  rw [Machine.execDemux_eq, whileRunning_of hr (beq_iff_eq.mpr h.1), withEntry_some (holdsFrame_read h (by omega)),
    andThen_of_next (execAux_running hr _) hr]
  rfl

/-- A half-word of the walk is the operation its bytes decode to at the state the walk has reached (R79, R150). -/
theorem walkByRows_cons (h : s.holdsFrame f) (k : Fin 7) (ks : List (Fin 7)) :
    walkByRows f (k :: ks) s = andThen (demuxHalf k s) (walkByRows f ks) := by
  rw [h.demuxHalf_eq, ← exec_halfClass_instr, walkByRows, (decode_halfWord_eq_ok _).mpr rfl]
  rfl

theorem walkByRows_nil (h : s.holdsFrame f) : walkByRows f [] s = demuxLast s := by
  rw [h.demuxLast_eq, walkByRows, decode_lastHalfWord]
  cases ctrlBit (f 14).byte <;> rfl

/-- A half-word leaves the frame in the buffer, so the walk is the rows' to its end. -/
theorem demuxWalk_eq (ks : List HalfIndex) (h : s.holdsFrame f) : demuxWalk ks s = walkByRows f ks s := by
  induction ks generalizing s with
  | nil => exact h.walkByRows_nil.symm
  | cons k ks ih =>
    rw [h.walkByRows_cons, demuxWalk]
    cases hd : demuxHalf k s with
    | fault r => rfl
    | refused r => rfl
    | next t =>
      obtain ⟨_, _, _, -, -, he, -⟩ := demuxHalf_emits hd
      rw [andThen, andThen, ih (h.of_same_buffer he.fill he.memRead)]

/-- Where the channel is known, a frame without a Current Channel ID begins with one (R136, R197). -/
theorem first_of_channelKnown (h : s.holdsFrame f) (hk : channelKnown s f) :
    s.curId.isSome = true ∨ ∀ e, s.memRead 0 = some e → ctrlBit e.byte = true := by
  refine hk.imp_right fun hctrl e he => ?_
  cases (h.2 0).symm.trans he
  exact hctrl

theorem setAuxVec (h : s.holdsFrame f) (a : AuxVector) : (s.setAuxVec a).holdsFrame f :=
  h.of_same_buffer rfl fun _ => rfl

end State.holdsFrame

/-- Settles O9: the aux byte's vector first, then the walk. -/
theorem demuxWalksTheHalfWordsInOrder : Obligations.DemuxWalksTheHalfWordsInOrder := fun _ _ hr h =>
  (h.execDemux_eq hr).trans ((h.setAuxVec _).demuxWalk_eq _)

/-! ### The packets of a frame -/

/-- A part of the demultiplexer that does not end the run keeps everything but the demultiplexer's own registers and the
output ports. -/
theorem Emits.kept_of_running {s t : State} {ps : List Packet} (h : Emits s t ps) (hr : s.status = .running)
    (ht : t.status = .running) :
    { t with curId := s.curId, orphanCount := s.orphanCount, answers := s.answers, out := s.out,
             auxVec := s.auxVec } = s := by
  have hterm : t.term = s.term := by
    rcases h.ended hr with ⟨-, hterm⟩ | ⟨hend, -⟩
    · exact hterm
    · simp [ht] at hend
  have hkept := h.kept
  rwa [← hterm, hr, ← ht] at hkept

/-- Settles O38: the offsets of the packets are among those of the frame's first 15 Entries, each used at most once. -/
theorem demuxRunsToTheEndOfTheFrame : Obligations.DemuxRunsToTheEndOfTheFrame := by
  intro s f hr hf hk ha
  obtain ⟨t, ht, htr, htc⟩ := execDemux_runs (holdsFrame_full hf) hr ha (hf.first_of_channelKnown hk)
  obtain ⟨ps, hps, hsub⟩ := execDemux_emits (offs := s.offAt) (fun _ _ he => offAt_of_memRead he) ht
  exact ⟨t, ps, ht, htr, htc, hps.delivered, by simpa using hsub.length_le, hps.kept_of_running hr htr⟩

/-- Settles O39: the offsets of the packets are a selection, in order, from those of the frame's first 15 Entries. -/
theorem packetsOfAFrameRiseInOffset : Obligations.PacketsOfAFrameRiseInOffset := by
  intro s t f hf hrise ht
  obtain ⟨ps, hps, hsub⟩ := execDemux_emits (offs := s.offAt) (fun _ _ he => offAt_of_memRead he) ht
  have hoff (j : Fin 16) : s.offAt j.val = (f j).off := (offAt_of_memRead (hf.2 j)).symm
  refine ⟨ps, hps.delivered, ?_, fun p hp => ?_⟩
  · refine List.Pairwise.sublist hsub (List.pairwise_map.mpr ?_)
    refine List.pairwise_lt_range.imp_of_mem fun {j k} hj hk hjk => ?_
    rw [List.mem_range] at hj hk
    rw [hoff ⟨j, by omega⟩, hoff ⟨k, by omega⟩]
    exact hrise _ _ hjk
  · obtain ⟨j, hj, hp'⟩ := List.mem_map.mp (hsub.subset (List.mem_map_of_mem hp))
    rw [List.mem_range] at hj
    exact ⟨⟨j, by omega⟩, hp'.symm.trans (hoff ⟨j, by omega⟩)⟩

end Sys2Proof.Machine
end

section
/-! PROOFS. The round trip of R161: a frame built by the `frame` statement is demultiplexed to what was written into it.
First where a form's bytes and aux bit stand in the frame, then what one half-word delivers, then the induction over the
forms. A delayed ID needs no exclusion there: once a Current Channel ID is in force its byte goes out under it. -/

namespace Sys2Proof.Machine

/-! ### Where the forms of a frame stand -/

/-- Half-word `k` of frame `f`, under aux vector `a`, is written as form `h`. -/
structure WrittenAs (f : Fin 16 → Entry) (a : AuxVector) (k : Fin 7) (h : HalfForm) : Prop where
  bytes : h.bytes = [(lowEntry f k).byte, (highEntry f k).byte]
  aux : auxBit a k = h.auxOf

theorem HalfForm.bytes_length (h : HalfForm) : h.bytes.length = 2 := by cases h <;> rfl

/-- Form `i` stands at bytes `2i` and `2i + 1`. -/
theorem bytes_of_forms (hs : List HalfForm) (i : Nat) (hi : i < hs.length) :
    ((hs.flatMap HalfForm.bytes).drop (2 * i)).take 2 = hs[i].bytes := by
  induction hs generalizing i with
  | nil => simp at hi
  | cons h hs ih =>
    cases i with
    | zero => exact List.take_left' h.bytes_length
    | succ i =>
      have hdrop : 2 * (i + 1) = h.bytes.length + 2 * i := by rw [h.bytes_length]; omega
      rw [List.flatMap_cons, hdrop, List.drop_length_add_append]
      exact ih i (Nat.lt_of_succ_lt_succ hi)

/-- Bit `i` of the aux vector is form `i`'s. -/
theorem auxBit_auxOfForms (hs : List HalfForm) (i : Nat) (hi : i < hs.length) (h7 : i < 7) :
    (auxOfForms hs).getLsbD i = hs[i].auxOf := by
  induction hs generalizing i with
  | nil => simp at hi
  | cons h hs ih =>
    cases i with
    | zero => simp [auxOfForms]
    | succ i =>
      have hbit : (auxOfForms (h :: hs)).getLsbD (i + 1) = (auxOfForms hs).getLsbD i := by
        simp [auxOfForms, h7, -BitVec.getLsbD_eq_getElem]
      exact hbit.trans (ih i (Nat.lt_of_succ_lt_succ hi) (by omega))

/-- R73, R86: the aux vector written as `A << 1` is read back. -/
theorem auxVector_shift (a : AuxVector) : auxVector (a.zeroExtend 8 <<< Config.auxLow) = a := by
  apply BitVec.eq_of_getLsbD_eq
  intro i hi
  have h7 : i < 7 := hi
  have h8 : 1 + i < 8 := by omega
  simp [auxVector, h7, h8]

/-- R86: every form of a frame stands at its half-word, under the aux vector in the last byte, and the last form at byte
14. -/
theorem writtenAs_of_bytes {f : Fin 16 → Entry} {q : FrameStmt} (hlen : q.halves.length = 7)
    (hb : (List.ofFn fun j => (f j).byte) = q.bytes) :
    List.Forall₂ (WrittenAs f (auxVector (f 15).byte)) halfIndices q.halves ∧ (f 14).byte = q.last.byte := by
  have hflat : (q.halves.flatMap HalfForm.bytes).length = 14 := by
    simp [List.length_flatMap, HalfForm.bytes_length, hlen]
  have hget (j : Fin 16) : q.bytes[j.val]? = some (f j).byte := by
    rw [← hb, List.getElem?_ofFn, dif_pos j.isLt]
  have hlast : q.last.byte = (f 14).byte := by simpa [FrameStmt.bytes, hflat] using hget 14
  have haux : (auxOfForms q.halves).zeroExtend 8 <<< Config.auxLow = (f 15).byte := by
    simpa [FrameStmt.bytes, hflat] using hget 15
  refine ⟨List.forall₂_iff_get.mpr ⟨hlen.symm, fun i h7 hi => ?_⟩, hlast.symm⟩
  have hi7 : i < 7 := h7
  rw [← haux, auxVector_shift, show halfIndices.get ⟨i, h7⟩ = (⟨i, h7⟩ : Fin 7) by simp [halfIndices]]
  refine ⟨?_, auxBit_auxOfForms q.halves i hi hi7⟩
  calc q.halves[i].bytes = ((q.halves.flatMap HalfForm.bytes).drop (2 * i)).take 2 := (bytes_of_forms _ i hi).symm
    _ = (q.bytes.drop (2 * i)).take 2 := by
      rw [FrameStmt.bytes, List.drop_append_of_le_length (by omega),
        List.take_append_of_le_length (by rw [List.length_drop]; omega)]
    _ = [(f ⟨2 * i, by omega⟩).byte, (f ⟨2 * i + 1, by omega⟩).byte] := by
      rw [← hb, List.drop_eq_getElem_cons (by simp; omega), List.drop_eq_getElem_cons (by simp; omega)]
      simp only [List.take_succ_cons, List.take_zero, List.getElem_ofFn]

/-! ### What is delivered -/

/-- Between `s` and `t` exactly the pairs of `w` whose ID is not NULL were delivered, in order (R157, R161). -/
def Delivers (s t : State) (w : List (ChanId × Byte)) : Prop :=
  ∃ ps, t.delivered = s.delivered ++ ps ∧
    ps.map (fun p => (p.id, p.datum)) = (w.filter (fun p => p.1 ≠ 0)).map (fun p => (p.1.zeroExtend 8, p.2))

theorem Delivers.refl (s : State) : Delivers s s [] := ⟨[], by simp, rfl⟩

theorem Delivers.trans {s t u : State} {v w : List (ChanId × Byte)} (h₁ : Delivers s t v) (h₂ : Delivers t u w) :
    Delivers s u (v ++ w) := by
  obtain ⟨ps, hp, hv⟩ := h₁
  obtain ⟨qs, hq, hw⟩ := h₂
  refine ⟨ps ++ qs, by rw [hq, hp, List.append_assoc], ?_⟩
  rw [List.map_append, hv, hw, List.filter_append, List.map_append]

theorem sentOk_delivers (s : State) (id : ChanId) (d : Byte) (e : Entry) : Delivers s (sentOk s id d e) [(id, d)] := by
  rcases eq_or_ne id 0 with rfl | hid
  · exact ⟨[], by rw [sentOk_null, List.append_nil], rfl⟩
  · have hkept : [(id, d)].filter (fun p => p.1 ≠ 0) = [(id, d)] := List.filter_cons_of_pos (by simpa using hid)
    refine ⟨[mkPacket id d e.off e.ts], ?_, by rw [hkept]; rfl⟩
    rw [sentOk_of_ne_null hid, State.emit_packet_delivered, State.takeAnswer_delivered]

/-! ### One half-word -/

/-- The pairs written into a half-word, with ID `cur` in force before it. -/
def HalfForm.pairs : HalfForm → ChanId → List (ChanId × Byte)
  | .id c d, _ => [(c, d)]
  | .idd _ d, cur => [(cur, d)]
  | .data d1 d2, cur => [(cur, d1), (cur, d2)]

/-- The ID in force after a half-word. -/
def HalfForm.idAfter : HalfForm → ChanId → ChanId
  | .id c _, _ => c
  | .idd c _, _ => c
  | .data _ _, cur => cur

theorem writtenPairs_cons (last : LastForm) (h : HalfForm) (hs : List HalfForm) (cur : ChanId) :
    writtenPairs last (h :: hs) cur = h.pairs cur ++ writtenPairs last hs (h.idAfter cur) := by cases h <;> rfl

theorem ctrlBit_idLow (id : ChanId) : ctrlBit (idLow id) = true := by simp [ctrlBit, idLow]

theorem idField_idLow (id : ChanId) : idField (idLow id) = id := by
  apply BitVec.eq_of_getLsbD_eq
  intro i hi
  have h7 : i < 7 := hi
  have h8 : 1 + i < 8 := by omega
  simp [idField, idLow, h7, h8]

/-- The fields of an ID half-word's low byte, as the half-word's rules read them (R72, R86). -/
theorem fields_of_idLow {id : ChanId} {lo : Byte} (h : idLow id = lo) :
    ctrlBit lo = true ∧ lo.extractLsb' 1 7 = id :=
  h ▸ ⟨ctrlBit_idLow id, idField_idLow id⟩

theorem ctrlBit_and_FE (d : Byte) : ctrlBit (d &&& 0xFE) = false := by simp [ctrlBit]

theorem idField_and_FE (d : Byte) : idField (d &&& 0xFE) = idField d := by
  have hmask : ∀ i < 7, (0xFE : Byte).getLsbD (1 + i) = true := by decide
  apply BitVec.eq_of_getLsbD_eq
  intro i hi
  simp only [idField, BitVec.getLsbD_extractLsb', BitVec.getLsbD_and, hmask i hi, Bool.and_true]

/-- R86: the first datum of a `data` form is its low byte's seven bits above its aux bit. -/
theorem datum_of_data_form (d : Byte) : 2 * ((d &&& 0xFE).toNat / 2) + (d.getLsbD 0).toNat = d.toNat := by
  have hlow : (d.getLsbD 0).toNat = d.toNat % 2 :=
    (Nat.toNat_testBit d.toNat 0).trans (by rw [Nat.pow_zero, Nat.div_one])
  rw [← idField_toNat, idField_and_FE, idField_toNat, hlow, Nat.div_add_mod]

/-- A walk that has not ended the run: the frame stands in the buffer and the sink will take `k` more packets. -/
structure Walking (f : Fin 16 → Entry) (a : AuxVector) (k : Nat) (s : State) : Prop where
  running : s.status = .running
  frame : s.holdsFrame f
  vector : s.auxVec = a
  accepts : s.sinkAccepts k

section
variable {f : Fin 16 → Entry} {a : AuxVector} {k : Nat} {s : State} {c : ChanId}

theorem Walking.setCurId (h : Walking f a k s) (id : ChanId) : Walking f a k (s.setCurId id) :=
  ⟨h.running, h.frame, h.vector, h.accepts⟩

theorem Walking.sentOk (h : Walking f a (k + 1) s) (id : ChanId) (d : Byte) (e : Entry) :
    Walking f a k (sentOk s id d e) :=
  ⟨sentOk_status.trans h.running, h.frame.of_same_buffer sentOk_n sentOk_memRead, sentOk_auxVec.trans h.vector,
    h.accepts.sentOk⟩

theorem Walking.mono {j : Nat} (h : Walking f a j s) (hkj : k ≤ j) : Walking f a k s :=
  ⟨h.running, h.frame, h.vector, sinkAccepts_mono hkj h.accepts⟩

/-- A half-word delivers what its form wrote, and leaves the ID in force that its form leaves, where there is a Current
Channel ID or the form is an undelayed ID. -/
theorem demuxHalf_delivers {i : Fin 7} {h : HalfForm} (hw : Walking f a (k + 2) s) (hh : WrittenAs f a i h)
    (hc : s.curId = some c ∨ ∃ id d, h = .id id d) :
    ∃ t, demuxHalf i s = .next t ∧ Walking f a k t ∧ t.curId = some (h.idAfter c) ∧ Delivers s t (h.pairs c) := by
  obtain ⟨hbytes, haux⟩ := hh
  rw [← hw.vector] at haux
  rw [hw.frame.demuxHalf_eq]
  generalize lowEntry f i = lo at hbytes ⊢
  generalize highEntry f i = hi at hbytes ⊢
  have hr := hw.running
  cases h with
  | id id d =>
    obtain ⟨hlo, rfl⟩ : idLow id = lo.byte ∧ d = hi.byte := by simpa [HalfForm.bytes] using hbytes
    obtain ⟨hctrl, hid⟩ := fields_of_idLow hlo
    refine ⟨_, ?_, ((hw.sentOk id hi.byte hi).setCurId id).mono (Nat.le_succ k), rfl, sentOk_delivers s id hi.byte hi⟩
    rw [State.halfClassOf, halfClass_eq_idImm.mpr ⟨hctrl, haux⟩]
    have hrow := (undelayedIdTagsItsByteWithTheNewId s i lo hi hr hctrl haux).1 (hw.accepts.acceptsNext _)
    rwa [hid] at hrow
  | idd id d =>
    obtain ⟨hlo, rfl⟩ : idLow id = lo.byte ∧ d = hi.byte := by simpa [HalfForm.bytes] using hbytes
    obtain ⟨hctrl, hid⟩ := fields_of_idLow hlo
    have hcur : s.curId = some c := hc.resolve_right (by simp)
    refine ⟨_, ?_, ((hw.sentOk c hi.byte hi).setCurId id).mono (Nat.le_succ k), rfl, sentOk_delivers s c hi.byte hi⟩
    rw [State.halfClassOf, halfClass_eq_idDelay.mpr ⟨hctrl, haux, by rw [State.curValid, hcur]; rfl⟩]
    have hrow := (delayedIdTagsItsByteWithTheOldId s i lo hi c hr hctrl haux hcur).1 (hw.accepts.acceptsNext _)
    rwa [hid] at hrow
  | data d1 d2 =>
    obtain ⟨hlo, rfl⟩ : d1 &&& 0xFE = lo.byte ∧ d2 = hi.byte := by simpa [HalfForm.bytes] using hbytes
    have hctrl : ctrlBit lo.byte = false := hlo ▸ ctrlBit_and_FE d1
    have hcur : s.curId = some c := hc.resolve_right (by simp)
    obtain ⟨d, hd, hrow, -⟩ := (dataHalfWordGivesTwoPacketsOrFaults s i lo hi hr hctrl).2 c hcur
    have hbit : s.auxVec.getLsbD i.val = d1.getLsbD 0 := haux
    obtain rfl : d = d1 := BitVec.eq_of_toNat_eq (by rw [hd, hbit, ← hlo, datum_of_data_form])
    refine ⟨_, ?_, (hw.sentOk c d lo).sentOk c hi.byte hi, by rw [sentOk_curId, sentOk_curId, hcur]; rfl,
      (sentOk_delivers s c d lo).trans (sentOk_delivers _ c hi.byte hi)⟩
    rw [State.halfClassOf, halfClass_eq_data.mpr hctrl]
    exact hrow (.inr (sinkAccepts_mono (by omega) hw.accepts))

/-- The last half-word delivers what its form wrote. -/
theorem demuxLast_delivers {last : LastForm} (hw : Walking f a (k + 1) s) (hlast : (f 14).byte = last.byte)
    (hvalid : ∀ d, last = .lastData d → ctrlBit d = false) (hc : s.curId = some c) :
    ∃ t, demuxLast s = .next t ∧ t.status = .running ∧ Delivers s t (writtenPairs last [] c) := by
  rw [hw.frame.demuxLast_eq]
  cases last with
  | lastId id =>
    have hctrl : ctrlBit (f 14).byte = true := hlast ▸ ctrlBit_idLow id
    rw [if_pos hctrl]
    exact ⟨_, lastIdIsAnnouncedWithoutAPacket s (f 14) (f 15).byte hw.running hctrl, hw.running, Delivers.refl s⟩
  | lastData d =>
    have hctrl : ctrlBit (f 14).byte = false := hlast ▸ hvalid d rfl
    rw [if_neg (by simp [hctrl])]
    obtain ⟨-, htaken, -⟩ := lastDataGivesOnePacketOrFaults s (f 14) (f 15).byte hw.running hctrl
    refine ⟨_, htaken c hc (hw.accepts.acceptsNext c), (hw.sentOk c _ _).running, ?_⟩
    rw [hlast]
    exact sentOk_delivers s c d (f 14)

/-! ### The walk -/

/-- A walk delivers what the forms it passes wrote, where there is a Current Channel ID or the first of them is an
undelayed ID. -/
theorem demuxWalk_delivers {last : LastForm} (hlast : (f 14).byte = last.byte)
    (hvalid : ∀ d, last = .lastData d → ctrlBit d = false) {is : List (Fin 7)} {hs : List HalfForm}
    (hforms : List.Forall₂ (WrittenAs f a) is hs) (hw : Walking f a (2 * is.length + 1) s)
    (hc : s.curId = some c ∨ ∃ id d hs', hs = .id id d :: hs') :
    ∃ t, demuxWalk is s = .next t ∧ t.status = .running ∧ Delivers s t (writtenPairs last hs c) := by
  induction hforms generalizing s c with
  | nil => exact demuxLast_delivers hw hlast hvalid (hc.resolve_right (by simp))
  | @cons i h is hs hh _ ih =>
    have hc' : s.curId = some c ∨ ∃ id d, h = .id id d := by simpa using hc
    obtain ⟨u, hu, huw, huc, hud⟩ := demuxHalf_delivers (k := 2 * is.length + 1) hw hh hc'
    obtain ⟨t, ht, htr, htd⟩ := ih huw (.inl huc)
    refine ⟨t, ?_, htr, writtenPairs_cons last h hs c ▸ hud.trans htd⟩
    rw [demuxWalk, andThen_of_next hu huw.running, ht]

end

/-- Settles O40: by induction over the forms, from the state with the frame's aux vector. -/
theorem builtFramesDemultiplexToWhatWasWritten : Obligations.BuiltFramesDemultiplexToWhatWasWritten := by
  intro s f q c hr hf hq _ hc hb ha
  obtain ⟨hlen, hvalid⟩ := Bool.and_eq_true_iff.mp hq
  obtain ⟨hforms, hlast⟩ := writtenAs_of_bytes (beq_iff_eq.mp hlen) hb
  have hw : Walking f (auxVector (f 15).byte) 15 (s.setAuxVec (auxVector (f 15).byte)) :=
    ⟨hr, hf.setAuxVec _, rfl, ha⟩
  have hctrl (d : Byte) (hd : q.last = .lastData d) : ctrlBit d = false := by simpa [hd] using hvalid
  obtain ⟨t, ht, htr, ps, hps, hpairs⟩ := demuxWalk_delivers hlast hctrl hforms hw hc
  exact ⟨t, ps, (hf.execDemux_eq hr).trans ht, htr, hps, hpairs⟩

end Sys2Proof.Machine
end

section
/-! PROOFS. Where a `BYTE` event ends the run (R172, R173, R177, R178): only a valid frame's demultiplexer can have
stopped it, on the full buffer, and the writes of the frame's row after `DEMUX` are not made. -/

namespace Sys2Proof.Machine

/-- The run ended on the way from `s` to `t`, for a cause the demultiplexer raises, and what the rest of the frame's row
would have written stands as it stood in `s`. -/
structure StoppedByDemux (s t : State) : Prop where
  cause : t.status = .abortedSink ∨ t.status = .faultNoCurrentId
  fill : t.n = s.n
  mode : t.mode = s.mode
  consec : t.consec = s.consec
  totalValid : t.totalValid = s.totalValid
  totalInvalid : t.totalInvalid = s.totalInvalid

theorem Emits.stoppedByDemux {s t : State} {ps : List Packet} (h : Emits s t ps) (hr : s.status = .running)
    (ht : t.status ≠ .running) : StoppedByDemux s t where
  cause := by
    obtain ⟨htr, -⟩ | ⟨hcause, -⟩ := h.ended hr
    · exact absurd htr ht
    · exact hcause
  fill := h.fill
  mode := h.mode
  consec := h.consec
  totalValid := h.totalValid
  totalInvalid := h.totalInvalid

/-- Of the rows of a completed frame only the two of a valid frame can end the run, where `DEMUX` stops. -/
theorem FrameEffect.stoppedByDemux {s t : State} (h : FrameEffect s t) (hr : s.status = .running)
    (ht : t.status ≠ .running) : StoppedByDemux s t := by
  cases h with
  | searchStopped e u ps hm hf he hd hu hps => exact { hps.stoppedByDemux hr hu with }
  | stopped u ps hm hf hd hu hps => exact hps.stoppedByDemux hr hu
  | searchValid e u ps hm hf he hd hu hps => exact absurd hu ht
  | valid u ps hm hf hd hu hps => exact absurd hu ht
  | compacted | emptied | tolerated | resumed => exact absurd (by simp [hr]) ht

/-- Only the byte that completes a frame can end the run, and it leaves the buffer full. -/
theorem ByteEffect.stoppedByDemux {b : Byte} {ts : Timestamp} {s t : State} (h : ByteEffect b ts s t)
    (hr : s.status = .running) (ht : t.status ≠ .running) :
    s.n.val = 15 ∧ StoppedByDemux (s.append (s.entryOf b ts)) t := by
  cases h with
  | completed ok t hm hn hf h => exact ⟨hn, { h.stoppedByDemux (by simpa using hr) ht with }⟩
  | sync | report | accepted | discarded | first | stored => exact absurd (by simp [hr]) ht

/-- Settles O46: the byte that ends the run is the sixteenth of a frame, and its store fills the buffer. -/
theorem stoppedEventFreezesTheBlock : Obligations.StoppedEventFreezesTheBlock := by
  intro s t b ts h ht
  obtain ⟨hr, -, hb⟩ := execByte_effect h
  obtain ⟨hn, hcause, hfill, hmode, hconsec, hvalid, hinvalid⟩ := hb.stoppedByDemux hr ht
  have hfull : t.n.val = 16 := by rw [hfill, State.append_n, hn]; rfl
  exact ⟨hcause, hfull, by simpa using hmode, by simpa using hconsec, by simpa using hvalid, by simpa using hinvalid⟩

end Sys2Proof.Machine
end

section
/-! PROOFS. Reset and the hazards (70_reset_and_hazards.md): what reset leaves (R190), when packets go out (R193), and the
frame a run that framed by the sync pattern may not begin with (R197). -/

namespace Sys2Proof.Machine

/-! ### Reset -/

/-- A reset waiting at the port is applied whatever the status (R179, R190). -/
theorem step_of_reset {s : State} {member : MemberTable} {intermix : Bool} {rest : List HostAction}
    (hi : s.input = .reset member intermix :: rest) :
    step s = .next ((s.takeInput rest).applyReset member intermix) := by
  rw [step, takeAction, hi]

/-- No entry of the buffer is written after reset, whatever the configuration (R24, R45). -/
theorem applyReset_buf (s : State) (member : MemberTable) (intermix : Bool) (j : Fin 16) :
    (s.applyReset member intermix).buf[j.val] = none := Vector.getElem_replicate ..

/-- Settles O53: each register holds the value `State.resetWith` gives it, and nothing has been put out. -/
theorem resetStartsANewRunFromAnyState : Obligations.ResetStartsANewRunFromAnyState := fun _ _ _ _ hi =>
  ⟨_, step_of_reset hi, rfl, rfl, rfl, rfl, applyReset_buf _ _ _, rfl, rfl, rfl, rfl, rfl, rfl, rfl, rfl, rfl, rfl⟩

/-! ### The packets of a `BYTE` event -/

/-- Between `s` and `t` the packets `ps` were delivered: at most one for each of a frame's first 15 Entries, each under an
ID from 1 to 127 (R39, R157, R159). -/
structure FramePackets (s t : State) (ps : List Packet) : Prop where
  delivered : t.delivered = s.delivered ++ ps
  length_le : ps.length ≤ 15
  ids : ∀ p ∈ ps, 1 ≤ p.id.toNat ∧ p.id.toNat ≤ 127

theorem FramePackets.none {s t : State} (h : t.delivered = s.delivered) : FramePackets s t [] where
  delivered := by rw [h, List.append_nil]
  length_le := Nat.zero_le 15
  ids := by simp

/-- `DEMUX` sends at most one packet from each of a frame's first 15 Entries (R159). -/
theorem execDemux_framePackets {s t : State} (h : execDemux s = .next t) : ∃ ps, FramePackets s t ps := by
  obtain ⟨ps, hps, hsub⟩ := execDemux_emits (offs := s.offAt) (fun _ _ he => offAt_of_memRead he) h
  exact ⟨ps, hps.delivered, by simpa using hsub.length_le, hps.ids⟩

/-- Only the two rows of a valid frame deliver packets, and only by `DEMUX` (R127, R129). -/
theorem FrameEffect.framePackets {s t : State} (h : FrameEffect s t) : ∃ ps, FramePackets s t ps := by
  have logged (e : Entry) {u : State} (hd : execDemux (s.log (.validFrame e.off)) = .next u) :
      ∃ ps, FramePackets s u ps := by
    obtain ⟨ps, hps⟩ := execDemux_framePackets hd
    exact ⟨ps, { hps with delivered := by rw [hps.delivered, State.log, State.emit_diag_delivered] }⟩
  have failed (hok : s.frameOk = some false) : ∃ ps, FramePackets s t ps := by
    obtain ⟨-, -, -, hdel, -⟩ := h.of_failed hok
    exact ⟨[], .none hdel⟩
  cases h with
  | searchValid e u ps hm hf he hd =>
    obtain ⟨ps, hps⟩ := logged e hd
    exact ⟨ps, { hps with }⟩
  | searchStopped e u ps hm hf he hd => exact logged e hd
  | valid u ps hm hf hd =>
    obtain ⟨ps, hps⟩ := execDemux_framePackets hd
    exact ⟨ps, { hps with }⟩
  | stopped u ps hm hf hd => exact execDemux_framePackets hd
  | compacted j e hm hf => exact failed hf
  | emptied hm hf => exact failed hf
  | tolerated e hm hf => exact failed hf
  | resumed e hm hf => exact failed hf

/-- Only the sixteenth byte of a frame delivers packets (R193). -/
theorem ByteEffect.framePackets {b : Byte} {ts : Timestamp} {s t : State} (h : ByteEffect b ts s t) :
    t.delivered = s.delivered ∨ (s.n.val = 15 ∧ ∃ ps, FramePackets s t ps) := by
  cases h with
  | sync m => exact .inl rfl
  | report m d => exact .inl (State.emit_diag_delivered ..)
  | accepted => exact .inl (by simp)
  | discarded => exact .inl rfl
  | first => exact .inl (by simp)
  | stored => exact .inl (by simp)
  | completed ok t hm hn hf h =>
    obtain ⟨ps, hps⟩ := h.framePackets
    exact .inr ⟨hn, ps, { hps with delivered := by simpa using hps.delivered }⟩

/-- Settles O43: counting the byte changes neither `n` nor what was delivered. -/
theorem packetsComeOnlyWithTheSixteenthByte : Obligations.PacketsComeOnlyWithTheSixteenthByte := by
  intro s t b ts h
  obtain ⟨-, -, hb⟩ := execByte_effect h
  rcases hb.framePackets with hdel | ⟨hn, ps, hps⟩
  · obtain ⟨hdel, hlen, hids⟩ := FramePackets.none hdel
    exact ⟨[], by simpa using hdel, hlen, fun _ => rfl, hids⟩
  · exact ⟨ps, by simpa using hps.delivered, hps.length_le, fun hne => absurd (by simpa using hn) hne, hps.ids⟩

/-! ### A frame that begins with data -/

section
variable {s : State} {f : Fin 16 → Entry} (hr : s.status = .running) (hf : s.holdsFrame f) (hc : s.curId = none)
  (hctrl : ctrlBit (f 0).byte = false)
include hr hf hc hctrl

/-- Half-word 0 with data and no Current Channel ID raises the fault (R154, R173). -/
theorem demuxHalf_zero_faults : demuxHalf 0 s = .next (s.raiseNoCurrentId 0 (f 0).off) := by
  have hdata : s.halfClassOf 0 (lowEntry f 0) = .data := beq_iff_eq.mp (halfClassOf_data hctrl)
  rw [hf.demuxHalf_eq, hdata]
  exact execHwData_none hr hctrl hc

/-- `DEMUX` of such a frame is stopped there, with nothing but the auxiliary vector decoded (R150, R177). -/
theorem execDemux_faults : execDemux s =
    .next ((s.setAuxVec (auxVector (f 15).byte)).raiseNoCurrentId 0 (f 0).off) := by
  have hfault := demuxHalf_zero_faults (s := s.setAuxVec (auxVector (f 15).byte)) hr (hf.setAuxVec _) hc hctrl
  rw [hf.execDemux_eq hr, demuxWalk, hfault]
  exact andThen_next_ended (by simp)

end

/-- Settles O47: the frame's row is `FRAME_VALID` (O8), which ends as its `DEMUX` does where that ends the run (O25). -/
theorem firstFrameAfterSyncMustStartWithAnId : Obligations.FirstFrameAfterSyncMustStartWithAnId := by
  intro s f hr hm hf hp hc hctrl
  obtain ⟨-, -, hrow, -, -⟩ := completedFrameRunsTheRowItIs s f hr hf
  have hdemux := execDemux_faults (s := s.setVerdict true) hr hf hc hctrl
  obtain ⟨hvalid, -⟩ := validFrameWhileFramingStaysFramed (s.setVerdict true) f hr hm hf hp
  obtain ⟨-, hstop⟩ := hvalid _ hdemux
  exact ⟨_, (hrow hm hp).trans (hstop (by simp)), rfl, rfl, State.terminate_delivered .., hf.1⟩

end Sys2Proof.Machine
end
